-- ==== Sys2Proof/Word.lean ====
section
/-! DEFINITION. The word types of the block (00_scope.md R7, R9): bytes, 16-bit and 32-bit unsigned
integers, and the 40-bit command word of 30_encoding.md R80. -/

namespace Sys2Proof

/-- `u8` (R9): a wire byte, a buffer cell, `moduleId`, `cmd`. -/
abbrev Byte := BitVec 8

/-- `u16` (R9, R7): capacities, cursors, `payloadLen`, the checksum. -/
abbrev Half := BitVec 16

/-- `u32` (R9, R7): `flags`, an error mask, the `arg` field of a command word, response `data`. -/
abbrev Word := BitVec 32

/-- A command word (R80): 40 bits, `op` in bits 39:32, `arg` in bits 31:0. -/
abbrev CmdWord := BitVec 40

end Sys2Proof
end

