-- ==== Sys2Proof/Machine/Constants.lean ====
section
/-! DEFINITION. The constants the source fixes (00_scope.md R5) and the big-endian assembly functions
with their inverses (R11). -/

namespace Sys2Proof.Machine

/-- `SYM_START` (R5): first byte of every frame. -/
def symStart : Byte := 0x01

/-- `SYM_END` (R5): last byte of every frame. -/
def symEnd : Byte := 0xAA

/-- `FLAG_RESP` (R5, 30_encoding.md R77): flags bit 0, "this is a response". -/
def flagResp : Word := 0x00000001

/-- `LEN_HEADER` (R5): start 1 + module 1 + command 1 + length 2. -/
def lenHeader : Nat := 5

/-- `LEN_FLAGS` (R5). -/
def lenFlags : Nat := 4

/-- `LEN_CKSUM` (R5). -/
def lenCksum : Nat := 2

/-- `LEN_END` (R5). -/
def lenEnd : Nat := 1

/-- `LEN_OVERHEAD` (R5): frame bytes other than payload. -/
def lenOverhead : Nat := 12

/-- `BE16(b0, b1)` (R11): `b0` is the byte at the lower index. -/
def be16 (b0 b1 : Byte) : Half := b0 ++ b1

/-- `BE32(b0, b1, b2, b3)` (R11). -/
def be32 (b0 b1 b2 b3 : Byte) : Word := b0 ++ b1 ++ b2 ++ b3

/-- `hi8(v) = v[15:8]` (R11). -/
def hi8 (v : Half) : Byte := v.extractLsb' 8 8

/-- `lo8(v) = v[7:0]` (R11). -/
def lo8 (v : Half) : Byte := v.extractLsb' 0 8

/-- `byte3(v) = v[31:24]` (R11). -/
def byte3 (v : Word) : Byte := v.extractLsb' 24 8

/-- `byte2(v) = v[23:16]` (R11). -/
def byte2 (v : Word) : Byte := v.extractLsb' 16 8

/-- `byte1(v) = v[15:8]` (R11). -/
def byte1 (v : Word) : Byte := v.extractLsb' 8 8

/-- `byte0(v) = v[7:0]` (R11). -/
def byte0 (v : Word) : Byte := v.extractLsb' 0 8

end Sys2Proof.Machine
end

