-- ==== Sys2Proof/Config.lean ====
section
/-! DEFINITION. What one implementation fixes (00_scope.md R6, parameters P1 to P3) and the values the
spec leaves free (10_state.md R24, 93_implementation_defined.md U1). None of them has a value here:
they are opaque, so no proof can rest on one (log 1, log 2). -/

namespace Sys2Proof

/-- The three parameters of R6. Each is an argument of the model and has no default. `validModules`
lists the members of the registry `VALID_MODULES`, which is used for membership only; the two maxima
range over 0 to 65535. -/
structure Config where
  validModules  : List Byte
  lenMaxPayload : Half
  blockLenMax   : Half
deriving DecidableEq, Repr, Inhabited

/-- The configuration of the block at hand, fixed by its integrator before reset is released (R203).
DESIGN CHOICE (log 1), safe: no value, so what is proved of it holds for every configuration. -/
opaque Config.implementation : Config

/-- The byte that the storage allocated by the `epoch`-th GENERATE holds in cell `index` of the send
buffer until something writes that cell (R24, U1). DESIGN CHOICE (log 2), safe: a free value. -/
opaque Config.freeTxByte : (epoch index : Nat) → Byte

/-- The same for the receive buffer (R24, U1). DESIGN CHOICE (log 2), safe: a free value. -/
opaque Config.freeRxByte : (epoch index : Nat) → Byte

end Sys2Proof
end

