-- ==== Sys2Proof/Machine/State.lean ====
section
/-! DEFINITION. The state of one instance of the block: exactly the table of 10_state.md R20, plus the
model's own fields for the configuration (log 1), the free contents of fresh storage (log 2) and the
two ports (log 4, log 8); the reasons a step can stop; and the state after reset (R43, R200). -/

namespace Sys2Proof.Machine

/-- The two directions of a Buffer Pair (R22). -/
inductive Dir where
  | tx | rx
deriving DecidableEq, Repr

/-- The five assembler states, in the source's order (R31). -/
inductive Asm where
  | awaitStart | collectingHeader | collectingPayload | collectingTail | complete
deriving DecidableEq, Repr

/-- The written cells of one byte array: (index, byte) pairs, indices strictly rising. An unlisted
index is a cell that no operation has written since GENERATE (R24); it has no value of its own here,
and the machine reads a free value from it (log 2, log 3). -/
abbrev Memory := List Host.Cell

/-- A Process Buffer (R22): capacity, cursor, byte array. -/
structure Buffer where
  len : Half
  idx : Half
  mem : Memory
deriving DecidableEq, Repr

/-- No storage (R23, R50): capacity and cursor 0, array empty. -/
def Buffer.empty : Buffer := { len := 0, idx := 0, mem := [] }

/-- A Packet register group (R26). -/
structure Packet where
  moduleId   : Byte
  cmd        : Byte
  payloadLen : Half
  flags      : Word
  error      : Word
deriving DecidableEq, Repr

/-- Every field 0 (R43, R151). -/
def Packet.zero : Packet := { moduleId := 0, cmd := 0, payloadLen := 0, flags := 0, error := 0 }

/-- A response (30_encoding.md R82): the triple `(err, complete, data)`. -/
structure Response where
  err      : Word
  complete : Bool
  data     : Word
deriving DecidableEq, Repr

/-- What presenting one command word yields (R80): a response, or `IllegalCommand(w)`, which is no
response (60_exceptions.md R189). -/
inductive Result where
  | response (r : Response)
  | illegalCommand (w : CmdWord)
deriving DecidableEq, Repr

/-- The two events that change state (70_reset_and_hazards.md R201): a command word, and reset. -/
inductive Input where
  | command (w : CmdWord)
  | reset
deriving DecidableEq, Repr

/-- One instance of the block. The first nine fields are the table of R20; the last four are the
model's own. -/
structure State where
  /-- The generation flag (R21). -/
  gen : Bool
  /-- The send Process Buffer (R22). -/
  tx : Buffer
  /-- The receive Process Buffer (R22). -/
  rx : Buffer
  /-- The assembler state (R31). -/
  asm : Asm
  /-- The send Packet (R26). -/
  txp : Packet
  /-- The receive Packet (R26). -/
  rxp : Packet
  /-- The checksum accumulator (40_checksum.md R105 to R108). -/
  ck : Half
  /-- MODEL'S OWN: the configuration parameters of 00_scope.md R6; no step changes them (log 1). -/
  cfg : Config
  /-- MODEL'S OWN: how many times storage was allocated; selects its free contents (log 2). -/
  epoch : Nat
  /-- MODEL'S OWN: what the host has issued and the block has not yet taken, in order (log 4). -/
  pending : List Input
  /-- MODEL'S OWN: what the block last handed back to the host (log 8). -/
  result : Option Result
deriving DecidableEq, Repr

/-- Why the machine stops. No rule of the spec stops it (60_exceptions.md R180, R194). -/
inductive Fault where
  /-- Raised by `memRead`, `memReadRange` and `memWrite` (Machine/Ops.lean) for an index outside
  `0 .. len-1`, where 00_scope.md R12 gives MemRead and MemWrite no meaning. Safe: every rule tests the
  range first, so only states that break an invariant of 10_state.md R23 or R32 raise it (log 7). -/
  | outOfRange (d : Dir) (index : Nat)
deriving DecidableEq, Repr

/-- Why an instruction has no meaning in the model. -/
inductive Refusal where
  /-- Raised by an arm of Machine/Dispatch.lean whose instruction has no meaning yet; safe. No arm
  raises it: every instruction has its meaning. -/
  | notModelled (mnemonic : String)
deriving DecidableEq, Repr

/-- The machine right after reset: the reset column of R20, summarised in R43 and R200. The model's
own fields: the configuration at hand, no storage allocated yet, nothing issued, nothing handed back. -/
def State.reset : State :=
  { gen := false
    tx := .empty
    rx := .empty
    asm := .awaitStart
    txp := .zero
    rxp := .zero
    ck := 0
    cfg := Config.implementation
    epoch := 0
    pending := []
    result := none }

end Sys2Proof.Machine
end

