-- ==== Sys2Proof/Machine/Flags.lean ====
section
/-! DEFINITION. The error mask (30_encoding.md R78, 60_exceptions.md R180 to R188), the block's nearest
thing to flags (10_state.md R28), and the checks whose failures CONSTRUCT and GENERATE OR together. -/

namespace Sys2Proof.Machine

/-- The eight error kinds (R78). -/
inductive ErrKind where
  | memory | state | length | module | startSym | checksum | endSym | incomplete
deriving DecidableEq, Repr

/-- The bit position of a kind (R78, the spec's decision D5). -/
def ErrKind.bit : ErrKind → Nat
  | .memory => 0
  | .state => 1
  | .length => 2
  | .module => 3
  | .startSym => 4
  | .checksum => 5
  | .endSym => 6
  | .incomplete => 7

/-- The mask with one kind set (R78). -/
def ErrKind.mask (k : ErrKind) : Word := 1#32 <<< k.bit

/-- `ERR_SUCCESS` (R5, R78): the empty mask. -/
def errSuccess : Word := 0

/-- `if c: err = err | ERR_k`, the term one check contributes to the mask (R116, R150). -/
def errWhen (c : Bool) (k : ErrKind) : Word := if c then k.mask else errSuccess

/-- `b ∈ VALID_MODULES` (00_scope.md R12, 10_state.md R30). -/
def moduleValid (cfg : Config) (b : Byte) : Bool := cfg.validModules.contains b

/-- Check (a) of CONSTRUCT (41_encode.md R116): does `payloadLen` exceed the protocol maximum? -/
def lengthExceeded (s : State) : Bool := decide (s.cfg.lenMaxPayload.toNat < s.txp.payloadLen.toNat)

/-- Check (b) of CONSTRUCT (R116): is the pair not generated, or the frame longer than the send buffer?
The sum is not truncated (00_scope.md R10). -/
def frameExceeds (s : State) : Bool :=
  !s.gen || decide (s.tx.len.toNat < lenOverhead + s.txp.payloadLen.toNat)

/-- Check (c) of CONSTRUCT (R116): is `moduleId` outside the registry? -/
def moduleUnknown (s : State) : Bool := !moduleValid s.cfg s.txp.moduleId

/-- The mask CONSTRUCT computes (R115, R116): every failing check is ORed in (decision D7). -/
def constructErr (s : State) : Word :=
  errWhen (lengthExceeded s) .length ||| errWhen (frameExceeds s) .memory |||
    errWhen (moduleUnknown s) .module

/-- Did a check of CONSTRUCT fail, that is, is `constructErr` not `ERR_SUCCESS` (R115)? -/
def constructFails (s : State) : Bool := frameExceeds s || lengthExceeded s || moduleUnknown s

/-- The mask GENERATE computes (44_lifecycle.md R150): both conditions are independent (D31). -/
def generateErr (blockLen : Half) (s : State) : Word :=
  errWhen s.gen .state ||| errWhen (decide (s.cfg.blockLenMax.toNat < blockLen.toNat)) .memory

end Sys2Proof.Machine
end

