-- ==== Sys2Proof/Machine/Ops.lean ====
section
/-! DEFINITION. The shared operations over State: the two byte arrays (20_memory.md R50 to R57), the
response port (30_encoding.md R82), IllegalCommand (60_exceptions.md R189, the block's only exception;
R194 and R195: there is no trap entry and no return), storage (44_lifecycle.md R150, R151) and reset
(70_reset_and_hazards.md R201). -/

namespace Sys2Proof.Machine

/-- The outcome of one operation or step. -/
abbrev Outcome := Host.Outcome State Fault Refusal

/-! ### The canonical form of a byte array -/

/-- The byte written at an index, none when nothing has written it since GENERATE (R24). -/
def Memory.lookup : Memory → Nat → Option Byte
  | [], _ => none
  | c :: m, i => if c.1 = i then some c.2 else Memory.lookup m i

/-- Write one cell, keeping the indices strictly rising. -/
def Memory.write : Memory → Nat → Byte → Memory
  | [], i, b => [(i, b)]
  | c :: m, i, b =>
    if i < c.1 then (i, b) :: c :: m
    else if i = c.1 then (i, b) :: m
    else c :: Memory.write m i b

/-- The canonical form (log 3): indices strictly rising. An unlisted index reads as no value, so no
entry can equal what an unlisted index reads as. -/
abbrev Memory.wf (m : Memory) : Prop := m.Pairwise (fun a b => a.1 < b.1)

/-! ### Access to the two buffers -/

/-- The Process Buffer of a direction (10_state.md R22). -/
def State.buffer (s : State) : Dir → Buffer
  | .tx => s.tx
  | .rx => s.rx

/-- The state with a direction's Process Buffer replaced. -/
def State.setBuffer (s : State) (d : Dir) (b : Buffer) : State :=
  match d with
  | .tx => { s with tx := b }
  | .rx => { s with rx := b }

/-- What a cell holds that nothing has written since GENERATE: a free value (R24, U1, log 2). -/
def freeByte (epoch : Nat) : Dir → Nat → Byte
  | .tx, i => Config.freeTxByte epoch i
  | .rx, i => Config.freeRxByte epoch i

/-- The byte in cell `i` of a direction's buffer, `d.mem[i]`; without the range test of MemRead. -/
def State.cell (s : State) (d : Dir) (i : Nat) : Byte :=
  ((s.buffer d).mem.lookup i).getD (freeByte s.epoch d i)

/-- The bytes `d.mem[first .. first + count - 1]`; a payload window (10_state.md R27) or a frame. -/
def State.window (s : State) (d : Dir) (first count : Nat) : List Byte :=
  (List.range count).map (fun k => s.cell d (first + k))

/-- The state with cell `i` written, without the range test of MemWrite. -/
def State.poke (s : State) (d : Dir) (i : Nat) (b : Byte) : State :=
  s.setBuffer d { s.buffer d with mem := (s.buffer d).mem.write i b }

/-- `MemRead(d, i)` (00_scope.md R12, 20_memory.md R53): defined for `i < d.len` (log 7). -/
def memRead (s : State) (d : Dir) (i : Nat) : Except Fault Byte :=
  if i < (s.buffer d).len.toNat then .ok (s.cell d i) else .error (.outOfRange d i)

/-- MemRead of `count` cells from `first` on (R53, log 7). -/
def memReadRange (s : State) (d : Dir) (first count : Nat) : Except Fault (List Byte) :=
  if first + count ≤ (s.buffer d).len.toNat then .ok (s.window d first count)
  else .error (.outOfRange d (max first (s.buffer d).len.toNat))

/-- `MemWrite(d, i, b)` (R12, 20_memory.md R54): defined for `i < d.len` (log 7). -/
def memWrite (s : State) (d : Dir) (i : Nat) (b : Byte) : Except Fault State :=
  if i < (s.buffer d).len.toNat then .ok (s.poke d i b) else .error (.outOfRange d i)

/-- MemWrite of consecutive cells from `first` on, lowest index first. -/
def memWriteRange (s : State) (d : Dir) (first : Nat) : List Byte → Except Fault State
  | [] => .ok s
  | b :: bs =>
    match memWrite s d first b with
    | .ok t => memWriteRange t d (first + 1) bs
    | .error f => .error f

/-- `BE16(rx.mem[3], rx.mem[4])`, the payload length a partial frame declares (10_state.md R38,
43_rx_assembler.md R138). -/
def declaredLen (s : State) : Except Fault Half :=
  match memRead s .rx 3, memRead s .rx 4 with
  | .ok b0, .ok b1 => .ok (be16 b0 b1)
  | .error f, _ => .error f
  | .ok _, .error f => .error f

/-- An access outside a buffer stops the machine; otherwise the operation goes on. -/
def faultOr {α : Type} (r : Except Fault α) (k : α → Outcome) : Outcome :=
  match r with
  | .ok a => k a
  | .error f => .fault f

/-! ### The response port -/

/-- `return (err, complete, data)` (R82). -/
def respond (err : Word) (complete : Bool) (data : Word) (s : State) : State :=
  { s with result := some (.response { err := err, complete := complete, data := data }) }

/-- `return (ERR_SUCCESS, 0, 0)`. -/
def succeed (s : State) : State := respond errSuccess false 0 s

/-- `return (ERR_SUCCESS, 0, data)`. -/
def succeedWith (data : Word) (s : State) : State := respond errSuccess false data s

/-- `return (err, 0, 0)` for a mask. -/
def failMask (err : Word) (s : State) : State := respond err false 0 s

/-- `return (ERR_k, 0, 0)`. -/
def fail (k : ErrKind) (s : State) : State := failMask k.mask s

/-- `raise IllegalCommand(w)` (R189): no register or cell changes, no response is produced. -/
def raiseIllegal (w : CmdWord) (s : State) : State := { s with result := some (.illegalCommand w) }

/-- `if gen = 0: return (ERR_MEMORY, 0, 0)`, the first line of every operation that needs storage
(60_exceptions.md R181, 20_memory.md R64). -/
def needStorage (s : State) (k : Outcome) : Outcome := if s.gen then k else .next (fail .memory s)

/-! ### Storage and reset -/

/-- What a successful GENERATE does (44_lifecycle.md R150): both buffers at capacity `blockLen`, cursors
0, assembler at its start; every cell unwritten, with fresh free contents (log 2). -/
def allocate (blockLen : Half) (s : State) : State :=
  { s with
    gen := true
    tx := { len := blockLen, idx := 0, mem := [] }
    rx := { len := blockLen, idx := 0, mem := [] }
    asm := .awaitStart
    epoch := s.epoch + 1 }

/-- What a successful DESTROY does (R151): no storage, assembler at its start, Packets cleared; `ck` is
not touched. -/
def release (s : State) : State :=
  { s with
    gen := false
    tx := .empty
    rx := .empty
    asm := .awaitStart
    txp := .zero
    rxp := .zero }

/-- `tx.idx <- 0` (R152). -/
def rewindTx (s : State) : State := { s with tx := { s.tx with idx := 0 } }

/-- `rx.idx <- 0; asm <- AWAIT_START` (R153). -/
def rewindRx (s : State) : State := { s with rx := { s.rx with idx := 0 }, asm := .awaitStart }

/-- The reset event (70_reset_and_hazards.md R201): every register at its reset value; the configuration
survives, as do the model's counter and the host's list of what it has issued (log 4). -/
def resetEvent (s : State) : State :=
  { State.reset with cfg := s.cfg, epoch := s.epoch, pending := s.pending }

end Sys2Proof.Machine
end

