-- ==== Sys2Proof/Machine/Assembler.lean ====
section
/-! DEFINITION. The Receive Assembler (43_rx_assembler.md): RXBYTE. -/

namespace Sys2Proof.Machine

/-- `append(b)` (R137): none when there is no room, and then nothing is written and nothing moves. -/
def append (b : Byte) (s : State) : Except Fault (Option State) :=
  if s.rx.len.toNat ≤ s.rx.idx.toNat then .ok none
  else
    match memWrite s .rx s.rx.idx.toNat b with
    | .ok t => .ok (some { t with rx := { t.rx with idx := t.rx.idx + 1 } })
    | .error f => .error f

/-- `if not append(b): return (ERR_MEMORY, 0, 0)`, then the rest of the case (R135). -/
def appendThen (b : Byte) (s : State) (k : State → Outcome) : Outcome :=
  faultOr (append b s) fun
    | none => .next (fail .memory s)
    | some t => k t

/-- Case AWAIT_START (R136): the sync detector. -/
def rxAwaitStart (b : Byte) (s : State) : Outcome :=
  if b ≠ symStart then .next (fail .startSym s)
  else appendThen b s fun t => .next (succeed { t with asm := .collectingHeader })

/-- Case COLLECTING_HEADER (R138): the length is known once the fifth byte is stored. -/
def rxHeader (b : Byte) (s : State) : Outcome :=
  appendThen b s fun t =>
    if t.rx.idx.toNat = lenHeader then
      faultOr (declaredLen t) fun l =>
        .next (succeed { t with asm := if l = 0 then .collectingTail else .collectingPayload })
    else .next (succeed t)

/-- Case COLLECTING_PAYLOAD (R139). -/
def rxPayload (b : Byte) (s : State) : Outcome :=
  appendThen b s fun t =>
    faultOr (declaredLen t) fun l =>
      if t.rx.idx.toNat = lenHeader + l.toNat then .next (succeed { t with asm := .collectingTail })
      else .next (succeed t)

/-- Case COLLECTING_TAIL (R140): the byte that completes the frame carries the completion signal. -/
def rxTail (b : Byte) (s : State) : Outcome :=
  appendThen b s fun t =>
    faultOr (declaredLen t) fun l =>
      if t.rx.idx.toNat = lenOverhead + l.toNat then
        .next (respond errSuccess true 0 { t with asm := .complete })
      else .next (succeed t)

/-- RXBYTE `b` (R135). Not generated: R143; COMPLETE: R142. -/
def execRxbyte (b : Byte) (s : State) : Outcome :=
  needStorage s
    (match s.asm with
     | .awaitStart => rxAwaitStart b s
     | .collectingHeader => rxHeader b s
     | .collectingPayload => rxPayload b s
     | .collectingTail => rxTail b s
     | .complete => .next (fail .state s))

end Sys2Proof.Machine
end

