-- ==== Sys2Proof/Machine/Checksum.lean ====
section
/-! DEFINITION. The streaming port of the Checksum Unit (40_checksum.md): CKCLR, CKADD, CKGET. -/

namespace Sys2Proof.Machine

/-- CKCLR (R105). -/
def execCkclr (s : State) : Outcome := .next (succeed { s with ck := 0 })

/-- CKADD `b` (R106): `mod 0x10000`, the carry is discarded. -/
def execCkadd (b : Byte) (s : State) : Outcome :=
  .next (succeed { s with ck := s.ck + b.setWidth 16 })

/-- CKGET (R107): `ck` keeps its value. -/
def execCkget (s : State) : Outcome := .next (succeedWith ((0xFFFF#16 - s.ck).setWidth 32) s)

end Sys2Proof.Machine
end

