-- ==== Sys2Proof/Machine/Frame.lean ====
section
/-! DEFINITION. The pure functions of the Checksum Unit and the Frame Codec: `checksum16`
(40_checksum.md R100), `frameEncode` (41_encode.md R119), `parseFrame` (42_decode.md R126). They read
nothing but their arguments. -/

namespace Sys2Proof.Machine

/-- The sum of R100: bytes zero-extended, plain addition, `mod 0x10000` (carry discarded, R101 (c)). -/
def byteSum (bytes : List Byte) : Half := bytes.foldl (fun acc b => acc + b.setWidth 16) 0

/-- `checksum16(bytes) = 0xFFFF - S` (R100). -/
def checksum16 (bytes : List Byte) : Half := 0xFFFF#16 - byteSum bytes

/-- The payload length field of a packet with payload `p` (30_encoding.md R73); `p` has at most 65535
bytes (R70). -/
def lengthField (p : List Byte) : Half := BitVec.ofNat 16 p.length

/-- Fields 2 to 6 of a frame, the bytes the checksum covers (30_encoding.md R72). -/
def frameBody (m c : Byte) (p : List Byte) (f : Word) : List Byte :=
  [m, c, hi8 (lengthField p), lo8 (lengthField p)] ++ p ++ [byte3 f, byte2 f, byte1 f, byte0 f]

/-- `frameEncode(m, c, p, f)` (R119): the `12 + L` bytes of the frame of 30_encoding.md R70. -/
def frameEncode (m c : Byte) (p : List Byte) (f : Word) : List Byte :=
  [symStart] ++ frameBody m c p f ++
    [hi8 (checksum16 (frameBody m c p f)), lo8 (checksum16 (frameBody m c p f))] ++ [symEnd]

/-- What `parseFrame` returns on success (R126): `Ok(m, c, L, f)`. -/
structure Fields where
  moduleId   : Byte
  cmd        : Byte
  payloadLen : Half
  flags      : Word
deriving DecidableEq, Repr

/-- Byte `i` of a byte array; every index `parseFrame` reads lies inside the array (R126, log 16). -/
def byteAt (buf : List Byte) (i : Nat) : Byte := buf.getD i 0

/-- `buf[first .. first + count - 1]`. -/
def slice (buf : List Byte) (first count : Nat) : List Byte := (buf.drop first).take count

/-- `parseFrame(buf, n)` (R126). `buf` here is the list of the `n` valid bytes, so `n` is its length.
The checks run in the order of R126 and stop at the first that fails, with exactly one kind. -/
def parseFrame (cfg : Config) (buf : List Byte) : Except ErrKind Fields :=
  if buf.length < lenOverhead then .error .incomplete
  else
    let len := be16 (byteAt buf 3) (byteAt buf 4)
    let l := len.toNat
    if buf.length < lenOverhead + l then .error .incomplete
    else if byteAt buf 0 ≠ symStart then .error .startSym
    else if !moduleValid cfg (byteAt buf 1) then .error .module
    else if checksum16 (slice buf 1 (8 + l)) ≠ be16 (byteAt buf (9 + l)) (byteAt buf (10 + l)) then
      .error .checksum
    else if byteAt buf (11 + l) ≠ symEnd then .error .endSym
    else
      .ok { moduleId := byteAt buf 1
            cmd := byteAt buf 2
            payloadLen := len
            flags := be32 (byteAt buf (5 + l)) (byteAt buf (6 + l)) (byteAt buf (7 + l))
              (byteAt buf (8 + l)) }

end Sys2Proof.Machine
end

