-- ==== Sys2Proof/Machine/Codec.lean ====
section
/-! DEFINITION. The Frame Codec: loading the send Packet and CONSTRUCT (41_encode.md), PARSE
(42_decode.md). -/

namespace Sys2Proof.Machine

/-- TXMOD `v` (R110). -/
def execTxmod (v : Byte) (s : State) : Outcome :=
  .next (succeed { s with txp := { s.txp with moduleId := v } })

/-- TXCMD `v` (R111). -/
def execTxcmd (v : Byte) (s : State) : Outcome :=
  .next (succeed { s with txp := { s.txp with cmd := v } })

/-- TXLEN `v` (R112). -/
def execTxlen (v : Half) (s : State) : Outcome :=
  .next (succeed { s with txp := { s.txp with payloadLen := v } })

/-- TXFLAGS `v` (R113). -/
def execTxflags (v : Word) (s : State) : Outcome :=
  .next (succeed { s with txp := { s.txp with flags := v } })

/-- TXPAY `idx, b` (R114): `5 + idx` is computed without wrap. -/
def execTxpay (idx : Half) (b : Byte) (s : State) : Outcome :=
  needStorage s
    (if s.tx.len.toNat ≤ lenHeader + idx.toNat then .next (fail .memory s)
     else faultOr (memWrite s .tx (lenHeader + idx.toNat) b) fun t => .next (succeed t))

/-- The writes of a CONSTRUCT whose checks passed, in the order of R115; the payload cells are already
in place and are not written. -/
def writeFrame (s : State) : Except Fault State :=
  let l := s.txp.payloadLen.toNat
  match memWriteRange s .tx 0
      [symStart, s.txp.moduleId, s.txp.cmd, hi8 s.txp.payloadLen, lo8 s.txp.payloadLen] with
  | .error f => .error f
  | .ok s1 =>
    match memWriteRange s1 .tx (5 + l)
        [byte3 s.txp.flags, byte2 s.txp.flags, byte1 s.txp.flags, byte0 s.txp.flags] with
    | .error f => .error f
    | .ok s2 =>
      match memReadRange s2 .tx 1 (8 + l) with
      | .error f => .error f
      | .ok covered =>
        memWriteRange s2 .tx (9 + l) [hi8 (checksum16 covered), lo8 (checksum16 covered), symEnd]

/-- CONSTRUCT (R115 to R118): all checks precede all writes; `txp.error` is written either way. -/
def execConstruct (s : State) : Outcome :=
  let s0 := { s with txp := { s.txp with error := constructErr s } }
  if constructFails s then .next (failMask (constructErr s) s0)
  else
    faultOr (writeFrame s0) fun t =>
      .next (succeed { t with tx := { t.tx with idx := BitVec.ofNat 16 (lenOverhead + s.txp.payloadLen.toNat) } })

/-- PARSE with a result of `parseFrame` (R125): `rxp.error` always, the four data fields on success. -/
def recordParse (s : State) : Except ErrKind Fields → State
  | .error k => fail k { s with rxp := { s.rxp with error := k.mask } }
  | .ok r =>
    succeed { s with rxp := { moduleId := r.moduleId
                              cmd := r.cmd
                              payloadLen := r.payloadLen
                              flags := r.flags
                              error := errSuccess } }

/-- PARSE (R125): `parseFrame` applied to the bytes below the receive cursor. -/
def execParse (s : State) : Outcome :=
  if s.gen then
    faultOr (memReadRange s .rx 0 s.rx.idx.toNat) fun buf => .next (recordParse s (parseFrame s.cfg buf))
  else .next (recordParse s (.error .memory))

end Sys2Proof.Machine
end

