-- ==== Sys2Proof/Machine/Lifecycle.lean ====
section
/-! DEFINITION. The Buffer Lifecycle operations (44_lifecycle.md): GENERATE, DESTROY, FLUSHTX, FLUSHRX,
FLUSHBOTH. A failing operation changes nothing. -/

namespace Sys2Proof.Machine

/-- GENERATE `blockLen` (R150). -/
def execGenerate (blockLen : Half) (s : State) : Outcome :=
  .next (if generateErr blockLen s = errSuccess then succeed (allocate blockLen s)
    else failMask (generateErr blockLen s) s)

/-- DESTROY (R151). -/
def execDestroy (s : State) : Outcome := needStorage s (.next (succeed (release s)))

/-- FLUSHTX (R152). -/
def execFlushtx (s : State) : Outcome := needStorage s (.next (succeed (rewindTx s)))

/-- FLUSHRX (R153). -/
def execFlushrx (s : State) : Outcome := needStorage s (.next (succeed (rewindRx s)))

/-- FLUSHBOTH (R154): both rewinds, as one atomic operation. -/
def execFlushboth (s : State) : Outcome := needStorage s (.next (succeed (rewindRx (rewindTx s))))

end Sys2Proof.Machine
end

