-- ==== Sys2Proof/Syntax.lean ====
section
/-! DEFINITION. The nineteen operations of the block, one constructor per row of
spec/opcode_table.json (30_encoding.md R83), with the operands of R81. -/

namespace Sys2Proof

/-- One operation request. Operands are unsigned and used as they are (R81). -/
inductive Instr where
  /-- GENERATE `blockLen` (44_lifecycle.md R150). -/
  | generate (blockLen : Half)
  /-- DESTROY (R151). -/
  | destroy
  /-- FLUSHTX (R152). -/
  | flushtx
  /-- FLUSHRX (R153). -/
  | flushrx
  /-- FLUSHBOTH (R154). -/
  | flushboth
  /-- RXBYTE `b` (43_rx_assembler.md R135). -/
  | rxbyte (b : Byte)
  /-- PARSE (42_decode.md R125). -/
  | parse
  /-- TXMOD `v` (41_encode.md R110). -/
  | txmod (v : Byte)
  /-- TXCMD `v` (R111). -/
  | txcmd (v : Byte)
  /-- TXLEN `v` (R112). -/
  | txlen (v : Half)
  /-- TXFLAGS `v` (R113). -/
  | txflags (v : Word)
  /-- TXPAY `idx, b` (R114). -/
  | txpay (idx : Half) (b : Byte)
  /-- CONSTRUCT (R115). -/
  | construct
  /-- RDREG `sel` (45_readout.md R161). -/
  | rdreg (sel : Byte)
  /-- RXRD `idx` (R162). -/
  | rxrd (idx : Half)
  /-- TXRD `idx` (R163). -/
  | txrd (idx : Half)
  /-- CKCLR (40_checksum.md R105). -/
  | ckclr
  /-- CKADD `b` (R106). -/
  | ckadd (b : Byte)
  /-- CKGET (R107). -/
  | ckget
deriving DecidableEq, Repr

end Sys2Proof
end

