-- ==== Sys2Proof/Decode.lean ====
section
/-! DEFINITION. Command words to operations and back (30_encoding.md R80, R81, R83, R91): the decoder,
total on all 40-bit words and rejecting by name, and the encoder after it. The opcodes (decision D20) and
the selectors (decision D21) stand in one table each, `Opcode.row` and `Reg.selector`, which everything
else here reads (00_scope.md R8). -/

namespace Sys2Proof

/-- Why a word is illegal (R91). -/
inductive DecodeError where
  /-- R91 (a): the opcode is not one of the nineteen. -/
  | unassignedOpcode (op : Byte)
  /-- R91 (b): a bit of `arg` that R81 says must be zero is 1. -/
  | reservedBits (arg : Word)
  /-- R91 (c): RDREG with an unlisted selector. -/
  | unlistedSelector (sel : Byte)
deriving DecidableEq, Repr

/-! ### The registers of RDREG -/

/-- The registers RDREG can select, by the names of 45_readout.md R161. -/
inductive Reg where
  | status | txLen | txIdx | rxLen | rxIdx | rxExpected
  | txpModule | txpCmd | txpPaylen | txpFlags | txpError | txpPaymax
  | rxpModule | rxpCmd | rxpPaylen | rxpFlags | rxpError | rxpPaymax
  | ck
deriving DecidableEq, Repr

/-- The selector column of R161: the one table of selectors. -/
def Reg.selector : Reg → Byte
  | .status => 0x00
  | .txLen => 0x01
  | .txIdx => 0x02
  | .rxLen => 0x03
  | .rxIdx => 0x04
  | .rxExpected => 0x05
  | .txpModule => 0x10
  | .txpCmd => 0x11
  | .txpPaylen => 0x12
  | .txpFlags => 0x13
  | .txpError => 0x14
  | .txpPaymax => 0x15
  | .rxpModule => 0x20
  | .rxpCmd => 0x21
  | .rxpPaylen => 0x22
  | .rxpFlags => 0x23
  | .rxpError => 0x24
  | .rxpPaymax => 0x25
  | .ck => 0x30

/-- The nineteen registers, in the order of R161. -/
def Reg.all : List Reg :=
  [.status, .txLen, .txIdx, .rxLen, .rxIdx, .rxExpected,
   .txpModule, .txpCmd, .txpPaylen, .txpFlags, .txpError, .txpPaymax,
   .rxpModule, .rxpCmd, .rxpPaylen, .rxpFlags, .rxpError, .rxpPaymax,
   .ck]

/-- The register a selector names, if any. -/
def Reg.ofSel (sel : Byte) : Option Reg := Reg.all.find? fun r => r.selector == sel

/-! ### The opcode map -/

/-- The operand shapes of R81. -/
inductive Shape where
  | none | byte | half | word | idxbyte
deriving DecidableEq, Repr

/-- The bits of `arg` that must be zero, by shape (R81). -/
def Shape.reserved : Shape → Word
  | .none => 0xFFFFFFFF
  | .byte => 0xFFFFFF00
  | .half => 0xFFFF0000
  | .word => 0x00000000
  | .idxbyte => 0xFF000000

/-- The names of the nineteen opcodes (R83). -/
inductive Opcode where
  | generate | destroy | flushtx | flushrx | flushboth
  | rxbyte | parse
  | txmod | txcmd | txlen | txflags | txpay | construct
  | rdreg | rxrd | txrd
  | ckclr | ckadd | ckget
deriving DecidableEq, Repr

/-- One row of the opcode map (R83). -/
structure OpRow where
  mnemonic : String
  code     : Byte
  shape    : Shape
deriving DecidableEq, Repr

/-- The opcode map of R83: the one table of opcodes. -/
def Opcode.row : Opcode → OpRow
  | .generate => ⟨"GENERATE", 0x01, .half⟩
  | .destroy => ⟨"DESTROY", 0x02, .none⟩
  | .flushtx => ⟨"FLUSHTX", 0x03, .none⟩
  | .flushrx => ⟨"FLUSHRX", 0x04, .none⟩
  | .flushboth => ⟨"FLUSHBOTH", 0x05, .none⟩
  | .rxbyte => ⟨"RXBYTE", 0x10, .byte⟩
  | .parse => ⟨"PARSE", 0x11, .none⟩
  | .txmod => ⟨"TXMOD", 0x20, .byte⟩
  | .txcmd => ⟨"TXCMD", 0x21, .byte⟩
  | .txlen => ⟨"TXLEN", 0x22, .half⟩
  | .txflags => ⟨"TXFLAGS", 0x23, .word⟩
  | .txpay => ⟨"TXPAY", 0x24, .idxbyte⟩
  | .construct => ⟨"CONSTRUCT", 0x25, .none⟩
  | .rdreg => ⟨"RDREG", 0x30, .byte⟩
  | .rxrd => ⟨"RXRD", 0x31, .half⟩
  | .txrd => ⟨"TXRD", 0x32, .half⟩
  | .ckclr => ⟨"CKCLR", 0x40, .none⟩
  | .ckadd => ⟨"CKADD", 0x41, .byte⟩
  | .ckget => ⟨"CKGET", 0x42, .none⟩

/-- The nineteen opcodes, in the order of R83. -/
def Opcode.all : List Opcode :=
  [.generate, .destroy, .flushtx, .flushrx, .flushboth, .rxbyte, .parse,
   .txmod, .txcmd, .txlen, .txflags, .txpay, .construct, .rdreg, .rxrd, .txrd,
   .ckclr, .ckadd, .ckget]

/-- The opcode an `op` field holds, if it is assigned. -/
def Opcode.ofCode (code : Byte) : Option Opcode := Opcode.all.find? fun o => o.row.code == code

/-- The rows of the map. -/
def opcodeMap : List OpRow := Opcode.all.map Opcode.row

/-- The column `match` of R83: the row's opcode, `arg` zero. -/
def OpRow.pattern (r : OpRow) : CmdWord := r.code ++ 0#32

/-- The column `mask` of R83: the opcode bits and the bits of `arg` that must be zero. -/
def OpRow.mask (r : OpRow) : CmdWord := 0xFF#8 ++ r.shape.reserved

/-- "A word `w` selects the row for which `w & mask = match`" (R83). -/
def OpRow.selects (r : OpRow) (w : CmdWord) : Bool := w &&& r.mask == r.pattern

/-! ### Operations and their two fields -/

/-- The operation of an opcode with the operands `arg` holds (R81). -/
def Opcode.instr (o : Opcode) (arg : Word) : Instr :=
  match o with
  | .generate => .generate (arg.extractLsb' 0 16)
  | .destroy => .destroy
  | .flushtx => .flushtx
  | .flushrx => .flushrx
  | .flushboth => .flushboth
  | .rxbyte => .rxbyte (arg.extractLsb' 0 8)
  | .parse => .parse
  | .txmod => .txmod (arg.extractLsb' 0 8)
  | .txcmd => .txcmd (arg.extractLsb' 0 8)
  | .txlen => .txlen (arg.extractLsb' 0 16)
  | .txflags => .txflags arg
  | .txpay => .txpay (arg.extractLsb' 8 16) (arg.extractLsb' 0 8)
  | .construct => .construct
  | .rdreg => .rdreg (arg.extractLsb' 0 8)
  | .rxrd => .rxrd (arg.extractLsb' 0 16)
  | .txrd => .txrd (arg.extractLsb' 0 16)
  | .ckclr => .ckclr
  | .ckadd => .ckadd (arg.extractLsb' 0 8)
  | .ckget => .ckget

/-- The opcode of an operation. -/
def Instr.opcode : Instr → Opcode
  | .generate _ => .generate
  | .destroy => .destroy
  | .flushtx => .flushtx
  | .flushrx => .flushrx
  | .flushboth => .flushboth
  | .rxbyte _ => .rxbyte
  | .parse => .parse
  | .txmod _ => .txmod
  | .txcmd _ => .txcmd
  | .txlen _ => .txlen
  | .txflags _ => .txflags
  | .txpay _ _ => .txpay
  | .construct => .construct
  | .rdreg _ => .rdreg
  | .rxrd _ => .rxrd
  | .txrd _ => .txrd
  | .ckclr => .ckclr
  | .ckadd _ => .ckadd
  | .ckget => .ckget

/-- The `arg` field of an operation: its operands in place, unused bits zero (R81). -/
def Instr.arg : Instr → Word
  | .generate blockLen => blockLen.setWidth 32
  | .destroy => 0
  | .flushtx => 0
  | .flushrx => 0
  | .flushboth => 0
  | .rxbyte b => b.setWidth 32
  | .parse => 0
  | .txmod v => v.setWidth 32
  | .txcmd v => v.setWidth 32
  | .txlen v => v.setWidth 32
  | .txflags v => v
  | .txpay idx b => 0#8 ++ idx ++ b
  | .construct => 0
  | .rdreg sel => sel.setWidth 32
  | .rxrd idx => idx.setWidth 32
  | .txrd idx => idx.setWidth 32
  | .ckclr => 0
  | .ckadd b => b.setWidth 32
  | .ckget => 0

/-- The mnemonic of an operation, as R83 spells it. -/
def Instr.mnemonic (i : Instr) : String := i.opcode.row.mnemonic

/-! ### The decoder and the encoder -/

/-- `op = w[39:32]` (R80). -/
def opField (w : CmdWord) : Byte := w.extractLsb' 32 8

/-- `arg = w[31:0]` (R80). -/
def argField (w : CmdWord) : Word := w.extractLsb' 0 32

/-- A command word from its two fields (R80). -/
def cmdWord (op : Byte) (arg : Word) : CmdWord := op ++ arg

/-- R91 (c): RDREG's selector must be one R161 lists. -/
def selectorListed : Instr → Except DecodeError Instr
  | .rdreg sel => if (Reg.ofSel sel).isSome then .ok (.rdreg sel) else .error (.unlistedSelector sel)
  | i => .ok i

/-- The operation a command word requests (R80, R81, R83), or why it is illegal: the clauses of R91 in
their order. -/
def decode (w : CmdWord) : Except DecodeError Instr :=
  match Opcode.ofCode (opField w) with
  | none => .error (.unassignedOpcode (opField w))
  | some o =>
    if argField w &&& o.row.shape.reserved = 0 then selectorListed (o.instr (argField w))
    else .error (.reservedBits (argField w))

/-- The command word of an operation (R80, R81, R83). -/
def encode (i : Instr) : CmdWord := cmdWord i.opcode.row.code i.arg

/-- What the decoder reads from the low `nbits` bits of `w`, numbered as spec/opcode_table.json numbers
them: the table's word is one 40-bit number, bit 0 its least significant bit (R80, log 15). -/
def decodeTableWord (nbits w : Nat) : Option Instr :=
  if nbits ≤ 40 then (decode (BitVec.ofNat 40 (w % 2 ^ nbits))).toOption else none

end Sys2Proof
end

