-- ==== Sys2Proof/Machine/Operands.lean ====
section
/-! DEFINITION. The values a register operand can name: RDREG's selectors (45_readout.md R161) with the
derived values of 10_state.md R26, R38, R39, R40. The operand shapes of command words (30_encoding.md
R81) stand in Decode.lean. -/

namespace Sys2Proof.Machine

/-- `payloadMax(d)` (R26): the largest payload whose frame fits the buffer. -/
def payloadMax (s : State) (d : Dir) : Half :=
  if lenOverhead ≤ (s.buffer d).len.toNat then (s.buffer d).len - BitVec.ofNat 16 lenOverhead else 0

/-- `rx.expected` (R38): `12 + L` once five bytes have arrived, 0 before; a value up to 65547. -/
def rxExpected (s : State) : Except Fault Word :=
  if lenHeader ≤ s.rx.idx.toNat then
    match declaredLen s with
    | .ok l => .ok (BitVec.ofNat 32 (lenOverhead + l.toNat))
    | .error f => .error f
  else .ok 0

/-- The number of an assembler state (R31). -/
def Asm.number : Asm → Nat
  | .awaitStart => 0
  | .collectingHeader => 1
  | .collectingPayload => 2
  | .collectingTail => 3
  | .complete => 4

/-- The coarse receive state of R39. -/
inductive Coarse where
  | idle | receiving | complete
deriving DecidableEq, Repr

/-- The coarse `bufferState`, a function of `asm` (R39). -/
def Asm.coarse : Asm → Coarse
  | .awaitStart => .idle
  | .collectingHeader => .receiving
  | .collectingPayload => .receiving
  | .collectingTail => .receiving
  | .complete => .complete

/-- The number STATUS shows for a coarse state (45_readout.md R161). -/
def Coarse.number : Coarse → Nat
  | .idle => 0
  | .receiving => 1
  | .complete => 2

/-- The level output `rx_complete` (R40, 60_exceptions.md R192). -/
def rxComplete (s : State) : Bool := s.asm == .complete

/-- Does the Packet carry `FLAG_RESP` (10_state.md R29, 30_encoding.md R77)? -/
def Packet.isResponse (p : Packet) : Bool := p.flags &&& flagResp != 0

/-- The STATUS register (45_readout.md R161): bit 0 `gen`, bits 3:1 `asm`, bits 5:4 the coarse state,
bit 6 `rx_complete`, the rest zero. -/
def statusWord (s : State) : Word :=
  (BitVec.ofBool s.gen).setWidth 32 ||| (BitVec.ofNat 32 s.asm.number <<< 1) |||
    (BitVec.ofNat 32 s.asm.coarse.number <<< 4) ||| ((BitVec.ofBool (rxComplete s)).setWidth 32 <<< 6)

/-- `zext_32(value(sel))` (R161). -/
def regValue (s : State) : Reg → Except Fault Word
  | .status => .ok (statusWord s)
  | .txLen => .ok (s.tx.len.setWidth 32)
  | .txIdx => .ok (s.tx.idx.setWidth 32)
  | .rxLen => .ok (s.rx.len.setWidth 32)
  | .rxIdx => .ok (s.rx.idx.setWidth 32)
  | .rxExpected => rxExpected s
  | .txpModule => .ok (s.txp.moduleId.setWidth 32)
  | .txpCmd => .ok (s.txp.cmd.setWidth 32)
  | .txpPaylen => .ok (s.txp.payloadLen.setWidth 32)
  | .txpFlags => .ok s.txp.flags
  | .txpError => .ok s.txp.error
  | .txpPaymax => .ok ((payloadMax s .tx).setWidth 32)
  | .rxpModule => .ok (s.rxp.moduleId.setWidth 32)
  | .rxpCmd => .ok (s.rxp.cmd.setWidth 32)
  | .rxpPaylen => .ok (s.rxp.payloadLen.setWidth 32)
  | .rxpFlags => .ok s.rxp.flags
  | .rxpError => .ok s.rxp.error
  | .rxpPaymax => .ok ((payloadMax s .rx).setWidth 32)
  | .ck => .ok (s.ck.setWidth 32)

end Sys2Proof.Machine
end

