-- ==== Sys2Proof/Machine/Readout.lean ====
section
/-! DEFINITION. The read-out operations (45_readout.md): RDREG, RXRD, TXRD. They change no register and
no cell (R160). -/

namespace Sys2Proof.Machine

/-- RDREG `sel` (R161). -/
def execRdreg (sel : Byte) (s : State) : Outcome :=
  match Reg.ofSel sel with
  | none => .next (raiseIllegal (encode (.rdreg sel)) s)
  | some r => faultOr (regValue s r) fun v => .next (succeedWith v s)

/-- The common form of RXRD and TXRD (R162, R163): `d.mem[idx]`, for `idx` below the cursor. -/
def readBelowCursor (d : Dir) (idx : Half) (s : State) : Outcome :=
  needStorage s
    (if (s.buffer d).idx.toNat ≤ idx.toNat then .next (fail .memory s)
     else faultOr (memRead s d idx.toNat) fun b => .next (succeedWith (b.setWidth 32) s))

/-- RXRD `idx` (R162). -/
def execRxrd (idx : Half) (s : State) : Outcome := readBelowCursor .rx idx s

/-- TXRD `idx` (R163). -/
def execTxrd (idx : Half) (s : State) : Outcome := readBelowCursor .tx idx s

end Sys2Proof.Machine
end

