-- ==== Sys2Proof/Machine/Dispatch.lean ====
section
/-! DEFINITION. One arm per operation, each a direct call of its meaning. -/

namespace Sys2Proof.Machine

def exec (i : Instr) (s : State) : Host.Outcome State Fault Refusal :=
  match i with
  | .generate blockLen => Sys2Proof.Machine.execGenerate blockLen s
  | .destroy => Sys2Proof.Machine.execDestroy s
  | .flushtx => Sys2Proof.Machine.execFlushtx s
  | .flushrx => Sys2Proof.Machine.execFlushrx s
  | .flushboth => Sys2Proof.Machine.execFlushboth s
  | .rxbyte b => Sys2Proof.Machine.execRxbyte b s
  | .parse => Sys2Proof.Machine.execParse s
  | .txmod v => Sys2Proof.Machine.execTxmod v s
  | .txcmd v => Sys2Proof.Machine.execTxcmd v s
  | .txlen v => Sys2Proof.Machine.execTxlen v s
  | .txflags v => Sys2Proof.Machine.execTxflags v s
  | .txpay idx b => Sys2Proof.Machine.execTxpay idx b s
  | .construct => Sys2Proof.Machine.execConstruct s
  | .rdreg sel => Sys2Proof.Machine.execRdreg sel s
  | .rxrd idx => Sys2Proof.Machine.execRxrd idx s
  | .txrd idx => Sys2Proof.Machine.execTxrd idx s
  | .ckclr => Sys2Proof.Machine.execCkclr s
  | .ckadd b => Sys2Proof.Machine.execCkadd b s
  | .ckget => Sys2Proof.Machine.execCkget s

end Sys2Proof.Machine
end

