-- ==== Sys2Proof/Machine/Port.lean ====
section
/-! DEFINITION. The command port (30_encoding.md R80, 20_memory.md R59): what the block takes next from
what the host has issued, and how a word comes to stand there (log 4). -/

namespace Sys2Proof.Machine

/-- What the block takes from its inputs. -/
inductive Taken where
  /-- Nothing is pending: the block is quiescent (00_scope.md R13). -/
  | idle
  /-- The reset event (70_reset_and_hazards.md R201). -/
  | reset
  /-- A legal word: the operation it requests. -/
  | run (i : Instr)
  /-- An illegal word (30_encoding.md R91). -/
  | illegal (w : CmdWord)
deriving DecidableEq, Repr

/-- The first of the pending inputs, decoded. -/
def taken (s : State) : Taken :=
  match s.pending with
  | [] => .idle
  | .reset :: _ => .reset
  | .command w :: _ =>
    match decode w with
    | .ok i => .run i
    | .error _ => .illegal w

/-- The state with its first pending input taken away. -/
def dropInput (s : State) : State := { s with pending := s.pending.tail }

/-- The host presents one word before everything it has issued so far. -/
def presentFirst (w : CmdWord) (s : State) : State := { s with pending := .command w :: s.pending }

/-- The 40-bit word whose low `nbits` bits are `w`'s, the rest zero. -/
def tableWord (nbits w : Nat) : CmdWord := BitVec.ofNat 40 (w % 2 ^ nbits)

end Sys2Proof.Machine
end

