-- ==== Sys2Proof/Machine/Step.lean ====
section
/-! DEFINITION. One step: one pending input, taken and handled whole (20_memory.md R58, R59). -/

namespace Sys2Proof.Machine

/-- One step of the block: with nothing pending, nothing happens (00_scope.md R13); a reset puts every
register at its reset value (R201); a legal word is executed (R80); an illegal word raises
IllegalCommand, after which the block is ready for the next word (R189, log 5). -/
def step (s : State) : Host.Outcome State Fault Refusal :=
  match taken s with
  | .idle => .next s
  | .reset => .next (resetEvent (dropInput s))
  | .run i => exec i (dropInput s)
  | .illegal w => .next (raiseIllegal w (dropInput s))

/-- `s` with the word stored where `step` takes its next instruction from: the head of `pending`. -/
def State.withFetchWord (s : State) (nbits w : Nat) : State := presentFirst (tableWord nbits w) s

end Sys2Proof.Machine
end

