-- ==== Sys2Proof/Machine/Pseudo.lean ====
section
/-! DEFINITION. Sequences of operations: running a list of instructions, the words a host issues for
one, and the three pseudo-operations of 30_encoding.md R94. -/

namespace Sys2Proof.Machine

/-- Execute instructions one after the other, each seeing the effects of all earlier ones
(20_memory.md R59); stop at the first fault or refusal. -/
def runInstrs : List Instr → State → Outcome
  | [], s => .next s
  | i :: is, s =>
    match exec i s with
    | .next t => runInstrs is t
    | .fault f => .fault f
    | .refused r => .refused r

/-- The command words of a list of instructions, as the host issues them. -/
def issued (is : List Instr) : List Input := is.map fun i => .command (encode i)

/-- `TXPAY k, p0; TXPAY k+1, p1; ...` -/
def stagePayload : Nat → List Byte → List Instr
  | _, [] => []
  | k, b :: bs => .txpay (BitVec.ofNat 16 k) b :: stagePayload (k + 1) bs

/-- `TXPKT m, c, [p0, ..., pn-1], f` (R94). -/
def txpkt (m c : Byte) (p : List Byte) (f : Word) : List Instr :=
  [.txmod m, .txcmd c, .txlen (BitVec.ofNat 16 p.length)] ++ stagePayload 0 p ++
    [.txflags f, .construct]

/-- `RXFRAME [b0, ..., bn-1]` (R94). -/
def rxframe (bytes : List Byte) : List Instr := bytes.map .rxbyte

/-- `CKSUM [b0, ..., bn-1]` (R94). -/
def cksum (bytes : List Byte) : List Instr := [.ckclr] ++ bytes.map .ckadd ++ [.ckget]

end Sys2Proof.Machine
end

