-- ==== Sys2Proof/Machine/Driver.lean ====
section
/-! DEFINITION. The Channel Driver at the boundary (46_channel_driver.md R170 to R175): SERVICE and
`handleFrame`, the host's sequence over the block's operations. It is surrounding software, outside the
block (00_scope.md R4 (e)); nothing of the block depends on it (log 11). -/

namespace Sys2Proof.Machine

/-- A Packet as the callbacks see it (R170): the payload is handed over as bytes. -/
structure Message where
  moduleId : Byte
  cmd      : Byte
  payload  : List Byte
  flags    : Word
deriving DecidableEq, Repr

/-- What stands around the driver (R170), all oracles (93_implementation_defined.md U7): what the `n`-th
callback call answers to a packet, and what the transport, another agent, appends to its queue at
moment `n`. They are arguments of SERVICE, never state. -/
structure Environment where
  command : Nat → Message → Message
  ack     : Nat → Message → Word
  arrive  : Nat → List Byte

/-- The driver of one channel: the block it drives, the transport's queue behind `readByte`, the bytes
`readByte` has taken from it, what `writeBytes` has sent, what it has reported (R173), how many
callbacks it has called, and how many moments have passed. -/
structure Driver where
  block    : State
  input    : List Byte
  consumed : List Byte
  output   : List Byte
  reports  : List Word
  calls    : Nat
  moment   : Nat
deriving DecidableEq, Repr

/-- The driver of a block at its start: nothing queued, nothing done. -/
def Driver.start (s : State) : Driver :=
  { block := s, input := [], consumed := [], output := [], reports := [], calls := 0, moment := 0 }

/-- The outcome of a driver sequence. -/
abbrev DriverOutcome := Host.Outcome Driver Fault Refusal

/-! ### The transport (R170, R174) -/

/-- The byte-append primitive: the transport's own queue grows at its end. -/
def Driver.appendBytes (bytes : List Byte) (d : Driver) : Driver := { d with input := d.input ++ bytes }

/-- One moment passes. The other agent may extend the queue; a moment passes after every operation the
driver issues, after every callback, and before every test of `bytesAvailable`, so that bytes can
arrive at any time. DESIGN CHOICE (log 19): the pending flag that an interrupt context sets beside the
byte append (R174) is not held, since the spec gives it no reader and no clearing; the test
`bytesAvailable() > 0` of R171 stands for it. -/
def Driver.pass (env : Environment) (d : Driver) : Driver :=
  { d.appendBytes (env.arrive d.moment) with moment := d.moment + 1 }

/-- What the transport appends from moment `first` on, during `count` moments. -/
def Environment.arrivals (env : Environment) (first count : Nat) : List Byte :=
  (List.range count).flatMap fun k => env.arrive (first + k)

/-- `bytesAvailable() -> count`. -/
def Driver.bytesAvailable (d : Driver) : Nat := d.input.length

/-- `readByte() -> byte`: the byte that has waited longest, and the driver without it; none when no byte
is available. -/
def Driver.readByte (d : Driver) : Option (Byte × Driver) :=
  match d.input with
  | [] => none
  | b :: rest => some (b, { d with input := rest, consumed := d.consumed ++ [b] })

/-- `writeBytes(bytes)`: the output trace grows. -/
def Driver.writeBytes (bytes : List Byte) (d : Driver) : Driver :=
  { d with output := d.output ++ bytes }

/-! ### Issuing operations -/

/-- Issue one operation and go on with its response. A legal word always has one. -/
def issue (env : Environment) (i : Instr) (d : Driver) (k : Response → Driver → DriverOutcome) :
    DriverOutcome :=
  match exec i d.block with
  | .next t =>
    match t.result with
    | some (.response r) => k r ({ d with block := t }.pass env)
    | _ => .next ({ d with block := t }.pass env)
  | .fault f => .fault f
  | .refused r => .refused r

/-- Issue operations in order, ignoring their responses. -/
def issueAll (env : Environment) : List Instr → Driver → (Driver → DriverOutcome) → DriverOutcome
  | [], d, k => k d
  | i :: is, d, k => issue env i d fun _ d' => issueAll env is d' k

/-- `report(err)` (R173): the driver's policy is recorded, not interpreted. -/
def report (err : Word) (d : Driver) : Driver := { d with reports := d.reports ++ [err] }

/-- Read `count` bytes from index `first` on, one read-out operation each. -/
def readOut (env : Environment) (op : Half → Instr) (first : Nat) :
    Nat → Driver → (List Byte → Driver → DriverOutcome) → DriverOutcome
  | 0, d, k => k [] d
  | count + 1, d, k =>
    issue env (op (BitVec.ofNat 16 first)) d fun r d1 =>
      readOut env op (first + 1) count d1 fun bytes d2 => k (r.data.setWidth 8 :: bytes) d2

/-- `FLUSHBOTH`, the end of every handled frame (R172). -/
def flushAndEnd (env : Environment) (d : Driver) : DriverOutcome :=
  issue env .flushboth d fun _ d' => .next d'

/-! ### Handling a frame (R172) -/

/-- The request the callbacks get: the receive Packet and its payload view. -/
def requestOf (s : State) (payload : List Byte) : Message :=
  { moduleId := s.rxp.moduleId, cmd := s.rxp.cmd, payload := payload, flags := s.rxp.flags }

/-- A message whose payload length fits the 16-bit field; a longer one is cut (log 11). -/
def Message.clip (m : Message) : Message := { m with payload := m.payload.take 65535 }

/-- One callback has been called. -/
def Driver.called (env : Environment) (d : Driver) : Driver :=
  { d with calls := d.calls + 1 }.pass env

/-- Encode a reply and hand it to the byte sink, or report the error and send nothing. -/
def sendReply (env : Environment) (m : Message) (d : Driver) : DriverOutcome :=
  issueAll env ([.txmod m.moduleId, .txcmd m.cmd, .txlen (BitVec.ofNat 16 m.payload.length)] ++
      stagePayload 0 m.payload ++ [.txflags m.flags]) d fun d1 =>
    issue env .construct d1 fun r d2 =>
      if r.err = errSuccess then
        readOut env .txrd 0 d2.block.tx.idx.toNat d2 fun bytes d3 => flushAndEnd env (d3.writeBytes bytes)
      else flushAndEnd env (report r.err d2)

/-- The acknowledgment path: the callback's error is reported, no reply is encoded. -/
def acknowledge (env : Environment) (m : Message) (d : Driver) : DriverOutcome :=
  let err := env.ack d.calls m
  flushAndEnd env (if err = errSuccess then d.called env else report err (d.called env))

/-- `handleFrame`. -/
def handleFrame (env : Environment) (d : Driver) : DriverOutcome :=
  issue env .parse d fun r d1 =>
    if r.err ≠ errSuccess then flushAndEnd env (report r.err d1)
    else
      readOut env .rxrd lenHeader d1.block.rxp.payloadLen.toNat d1 fun payload d2 =>
        if d2.block.rxp.isResponse then acknowledge env (requestOf d2.block payload) d2
        else sendReply env (env.command d2.calls (requestOf d2.block payload)).clip (d2.called env)

/-! ### SERVICE (R171) -/

/-- The body of SERVICE's loop for the byte just read. -/
def serviceByte (env : Environment) (b : Byte) (d : Driver) : DriverOutcome :=
  issue env (.rxbyte b) d fun r d1 =>
    if r.err ≠ errSuccess then issue env .flushrx (report r.err d1) fun _ d2 => .next d2
    else if r.complete then handleFrame env d1
    else .next d1

/-- How far SERVICE has come. -/
inductive Progress where
  /-- The test `bytesAvailable() > 0` failed: SERVICE has returned. -/
  | returned (d : Driver)
  /-- The loop is about to test again. -/
  | looping (d : Driver)
deriving DecidableEq, Repr

/-- The driver, wherever SERVICE stands. -/
def Progress.driver : Progress → Driver
  | .returned d => d
  | .looping d => d

/-- SERVICE, its first `n` tests of `while bytesAvailable() > 0`. Every test sees what has arrived until
then, while SERVICE was running too; a transport that never falls silent keeps it looping. -/
def serviceFor (env : Environment) : Nat → Driver → Host.Outcome Progress Fault Refusal
  | 0, d => .next (.looping d)
  | n + 1, d =>
    match (d.pass env).readByte with
    | none => .next (.returned (d.pass env))
    | some (b, d1) =>
      match serviceByte env b d1 with
      | .next d2 => serviceFor env n d2
      | .fault f => .fault f
      | .refused r => .refused r

/-- SERVICE called on `d` returns with `d'`. -/
def ServiceReturns (env : Environment) (d d' : Driver) : Prop :=
  ∃ n, serviceFor env n d = .next (.returned d')

end Sys2Proof.Machine
end

