-- ==== Sys2Proof/Safety.lean ====
section
/-! DEFINITION. What holds of every reachable state (10_state.md R22, R23, R25, R32, R53; 30_encoding.md
R78, R82), and what counts as a safe run. -/

namespace Sys2Proof.Machine

/-- One Process Buffer is sound: the array is in canonical form and lies within the capacity (R50), the
cursor does not pass the capacity (R23). -/
abbrev Buffer.Sound (b : Buffer) : Prop :=
  Memory.wf b.mem ∧ (∀ c ∈ b.mem, c.1 < b.len.toNat) ∧ b.idx.toNat ≤ b.len.toNat

/-- R22, R23: both buffers sound and of one capacity; no storage while the pair is not generated. -/
abbrev StorageInv (s : State) : Prop :=
  s.tx.Sound ∧ s.rx.Sound ∧ s.tx.len = s.rx.len ∧
    (s.gen = false → s.tx = .empty ∧ s.rx = .empty)

/-- `L = BE16(rx.mem[3], rx.mem[4])` (R32), as a number. -/
def rxLength (s : State) : Nat := (be16 (s.cell .rx 3) (s.cell .rx 4)).toNat

/-- Has every cell below `n` been written since GENERATE? -/
abbrev Buffer.WrittenBelow (b : Buffer) (n : Nat) : Prop :=
  ∀ i, i < n → (b.mem.lookup i).isSome = true

/-- R32, clause by clause, and the cells below the receive cursor have been written (R53). -/
abbrev AssemblerInv (s : State) : Prop :=
  (s.asm = .awaitStart ↔ s.rx.idx.toNat = 0) ∧
  (s.asm = .collectingHeader ↔ 1 ≤ s.rx.idx.toNat ∧ s.rx.idx.toNat ≤ 4) ∧
  (s.asm = .collectingPayload ↔ 5 ≤ s.rx.idx.toNat ∧ s.rx.idx.toNat < 5 + rxLength s) ∧
  (s.asm = .collectingTail ↔
    5 ≤ s.rx.idx.toNat ∧ 5 + rxLength s ≤ s.rx.idx.toNat ∧ s.rx.idx.toNat < 12 + rxLength s) ∧
  (s.asm = .complete ↔ 5 ≤ s.rx.idx.toNat ∧ s.rx.idx.toNat = 12 + rxLength s) ∧
  (1 ≤ s.rx.idx.toNat → s.cell .rx 0 = symStart) ∧
  s.rx.WrittenBelow s.rx.idx.toNat

/-- `BE16(tx.mem[3], tx.mem[4])`, as a number. -/
def txLength (s : State) : Nat := (be16 (s.cell .tx 3) (s.cell .tx 4)).toNat

/-- R25, R53: `tx.idx` is 0 or the length of the frame in the send buffer, whose cells outside the
payload window have been written. -/
abbrev SendInv (s : State) : Prop :=
  s.tx.idx.toNat = 0 ∨
    (s.tx.idx.toNat = 12 + txLength s ∧ s.cell .tx 0 = symStart ∧
      ∀ i, i < 12 + txLength s → (i < 5 ∨ 5 + txLength s ≤ i) → (s.tx.mem.lookup i).isSome = true)

/-- Bits 31 to 8 of an error mask are 0 (30_encoding.md R78). -/
abbrev maskSound (err : Word) : Prop := err &&& 0xFFFFFF00#32 = 0

/-- A response is sound: its mask is (R78), and `complete = 1` implies `err = 0` (R82). -/
abbrev Response.Sound (r : Response) : Prop := maskSound r.err ∧ (r.complete = true → r.err = 0)

/-- What was last handed back is sound: nothing, an IllegalCommand, or a sound response. -/
def resultSound : Option Result → Bool
  | none => true
  | some (.illegalCommand _) => true
  | some (.response r) => decide r.Sound

/-- Every stored error mask and the last response are sound (R78, R82). -/
abbrev ErrorInv (s : State) : Prop :=
  maskSound s.txp.error ∧ maskSound s.rxp.error ∧ resultSound s.result = true

/-- The invariant of every reachable state. -/
abbrev BlockInv (s : State) : Prop := StorageInv s ∧ AssemblerInv s ∧ SendInv s ∧ ErrorInv s

/-- A run is safe when it never stops: the machine neither faults nor refuses, however far it goes. -/
def SafeRun (s : State) : Prop := ∀ n, ∃ t, Host.Core.run Sys2Proof.core n s = .next t

end Sys2Proof.Machine
end

