-- ==== Sys2Proof/WellFormed.lean ====
section
/-! DEFINITION. Which terms of `Instr` are operations of the block. The operand types bound every
operand but one: RDREG's selector must be listed (45_readout.md R161, 30_encoding.md R91 (c)). -/

namespace Sys2Proof

/-- The selectors R161 lists. -/
def listedSelectors : List Byte := Reg.all.map Reg.selector

/-- An instruction is well formed when RDREG's selector is listed; no other operand is restricted. -/
def Instr.wellFormed : Instr → Bool
  | .generate _ => true
  | .destroy => true
  | .flushtx => true
  | .flushrx => true
  | .flushboth => true
  | .rxbyte _ => true
  | .parse => true
  | .txmod _ => true
  | .txcmd _ => true
  | .txlen _ => true
  | .txflags _ => true
  | .txpay _ _ => true
  | .construct => true
  | .rdreg sel => listedSelectors.contains sel
  | .rxrd _ => true
  | .txrd _ => true
  | .ckclr => true
  | .ckadd _ => true
  | .ckget => true

end Sys2Proof
end

