-- ==== Sys2Proof/Certificates/Slice0/Obligations.lean ====
section
/-! DEFINITION. The statements about the block, one definition each; the numbered rules of the spec they
come from stand in their docstrings and in OBLIGATIONS.json. Error masks, offsets and opcodes are
written as the numbers of 30_encoding.md (decisions D5 and D20), not through the model's own tables. -/

namespace Sys2Proof.Claim

open Sys2Proof.Machine

/-- The last response was `(err, complete, data)`. -/
def handsBack (t : State) (err : Word) (complete : Bool) (data : Word) : Prop :=
  t.result = some (.response ⟨err, complete, data⟩)

/-- `i` on `s` is answered `(err, 0, 0)` and changes nothing else. -/
def rejects (i : Instr) (s : State) (err : Word) : Prop :=
  exec i s = .next { s with result := some (.response ⟨err, false, 0⟩) }

/-- `i` on `s` is answered `(ERR_SUCCESS, 0, data)` and changes nothing else. -/
def answers (i : Instr) (s : State) (data : Word) : Prop :=
  exec i s = .next { s with result := some (.response ⟨0, false, data⟩) }

/-- The word of an operation: `op` in bits 39:32, `arg` in bits 31:0 (R80). -/
def encodedAs (i : Instr) (op : Byte) (arg : Word) : Prop := encode i = op ++ arg

/-- The sum of bytes as numbers, without any wrap. -/
def byteTotal (bytes : List Byte) : Nat := (bytes.map BitVec.toNat).sum

/-- A byte of a list, as a number. -/
def num (bytes : List Byte) (i : Nat) : Nat := (bytes.getD i 0).toNat

/-- `L` of a frame: bytes 3 and 4, big-endian (R73). -/
def frameLen (bytes : List Byte) : Nat := 256 * num bytes 3 + num bytes 4

/-- The error bits of R78, in numbers. -/
def errBit : ErrKind → Word
  | .memory => 0x01
  | .state => 0x02
  | .length => 0x04
  | .module => 0x08
  | .startSym => 0x10
  | .checksum => 0x20
  | .endSym => 0x40
  | .incomplete => 0x80

/-- The opcode map as R83 prints it: mnemonic, `match`, `mask`. -/
def printedMap : List (String × CmdWord × CmdWord) :=
  [("GENERATE",  0x0100000000, 0xFFFFFF0000),
   ("DESTROY",   0x0200000000, 0xFFFFFFFFFF),
   ("FLUSHTX",   0x0300000000, 0xFFFFFFFFFF),
   ("FLUSHRX",   0x0400000000, 0xFFFFFFFFFF),
   ("FLUSHBOTH", 0x0500000000, 0xFFFFFFFFFF),
   ("RXBYTE",    0x1000000000, 0xFFFFFFFF00),
   ("PARSE",     0x1100000000, 0xFFFFFFFFFF),
   ("TXMOD",     0x2000000000, 0xFFFFFFFF00),
   ("TXCMD",     0x2100000000, 0xFFFFFFFF00),
   ("TXLEN",     0x2200000000, 0xFFFFFF0000),
   ("TXFLAGS",   0x2300000000, 0xFF00000000),
   ("TXPAY",     0x2400000000, 0xFFFF000000)] ++
  [("CONSTRUCT", 0x2500000000, 0xFFFFFFFFFF),
   ("RDREG",     0x3000000000, 0xFFFFFFFF00),
   ("RXRD",      0x3100000000, 0xFFFFFF0000),
   ("TXRD",      0x3200000000, 0xFFFFFF0000),
   ("CKCLR",     0x4000000000, 0xFFFFFFFFFF),
   ("CKADD",     0x4100000000, 0xFFFFFFFF00),
   ("CKGET",     0x4200000000, 0xFFFFFFFFFF)]

/-- The selectors as R161 prints them. -/
def printedSelectors : List Byte :=
  [0x00, 0x01, 0x02, 0x03, 0x04, 0x05,
   0x10, 0x11, 0x12, 0x13, 0x14, 0x15,
   0x20, 0x21, 0x22, 0x23, 0x24, 0x25,
   0x30]

/-- The nineteen assigned opcodes (R83). -/
def assignedOps : List Nat :=
  [0x01, 0x02, 0x03, 0x04, 0x05, 0x10, 0x11, 0x20, 0x21, 0x22, 0x23, 0x24, 0x25,
   0x30, 0x31, 0x32, 0x40, 0x41, 0x42]

/-- The bits of `arg` that must be zero, by opcode (R81 through the shape column of R83). -/
def mustBeZero (op : Nat) : Word :=
  if op ∈ [0x02, 0x03, 0x04, 0x05, 0x11, 0x25, 0x40, 0x42] then 0xFFFFFFFF
  else if op ∈ [0x10, 0x20, 0x21, 0x41, 0x30] then 0xFFFFFF00
  else if op ∈ [0x01, 0x22, 0x31, 0x32] then 0xFFFF0000
  else if op = 0x24 then 0xFF000000
  else 0

/-- R91, clauses (a), (b), (c). -/
def illegal (w : CmdWord) : Prop :=
  (w.extractLsb' 32 8).toNat ∉ assignedOps ∨
  w.extractLsb' 0 32 &&& mustBeZero (w.extractLsb' 32 8).toNat ≠ 0 ∨
  ((w.extractLsb' 32 8).toNat = 0x30 ∧ w.extractLsb' 0 8 ∉ printedSelectors)

/-- Every register of R20 at its reset value. -/
def registersReset (t : State) : Prop :=
  t.gen = false ∧ t.tx = ⟨0, 0, []⟩ ∧ t.rx = ⟨0, 0, []⟩ ∧ t.asm = .awaitStart ∧
    t.txp = ⟨0, 0, 0, 0, 0⟩ ∧ t.rxp = ⟨0, 0, 0, 0, 0⟩ ∧ t.ck = 0

/-- RXBYTE `b` on `s` is accepted: the byte lands in the cell the cursor names, the cursor moves by one,
the assembler goes to `next`, and the response is `(0, done, 0)`; nothing else changes. -/
def accepts (s : State) (b : Byte) (next : Asm) (done : Bool) : Prop :=
  ∃ t, exec (.rxbyte b) s = .next t ∧
    t = { s with rx := ⟨s.rx.len, s.rx.idx + 1, t.rx.mem⟩, asm := next,
                 result := some (.response ⟨0, done, 0⟩) } ∧
    ∀ i, t.cell .rx i = if i = s.rx.idx.toNat then b else s.cell .rx i

/-- The number of an assembler state (R31). -/
def asmNumber (a : Asm) : Nat :=
  match a with
  | .awaitStart => 0
  | .collectingHeader => 1
  | .collectingPayload => 2
  | .collectingTail => 3
  | .complete => 4

/-- The table of R161: selector and value, the values as numbers. -/
def selectorValues (s : State) : List (Byte × Nat) :=
  [(0x00, (if s.gen then 1 else 0) + 2 * asmNumber s.asm
      + 16 * (if s.asm = .awaitStart then 0 else if s.asm = .complete then 2 else 1)
      + 64 * (if s.asm = .complete then 1 else 0)),
   (0x01, s.tx.len.toNat), (0x02, s.tx.idx.toNat), (0x03, s.rx.len.toNat), (0x04, s.rx.idx.toNat),
   (0x05, if 5 ≤ s.rx.idx.toNat then 12 + rxLength s else 0),
   (0x10, s.txp.moduleId.toNat), (0x11, s.txp.cmd.toNat), (0x12, s.txp.payloadLen.toNat),
   (0x13, s.txp.flags.toNat), (0x14, s.txp.error.toNat), (0x15, s.tx.len.toNat - 12)] ++
  [(0x20, s.rxp.moduleId.toNat), (0x21, s.rxp.cmd.toNat), (0x22, s.rxp.payloadLen.toNat),
   (0x23, s.rxp.flags.toNat), (0x24, s.rxp.error.toNat), (0x25, s.rx.len.toNat - 12),
   (0x30, s.ck.toNat)]

/-- The error bits an operation can return: the matrix of R190. -/
def possibleErrors : Instr → Word
  | .generate _ => 0x03
  | .destroy => 0x01
  | .flushtx => 0x01
  | .flushrx => 0x01
  | .flushboth => 0x01
  | .rxbyte _ => 0x13
  | .parse => 0xF9
  | .txmod _ => 0
  | .txcmd _ => 0
  | .txlen _ => 0
  | .txflags _ => 0
  | .txpay _ _ => 0x01
  | .construct => 0x0D
  | .rdreg _ => 0
  | .rxrd _ => 0x01
  | .txrd _ => 0x01
  | .ckclr => 0
  | .ckadd _ => 0
  | .ckget => 0

/-- Apply a change to a next state. -/
def mapNext (f : State → State) : Outcome → Outcome
  | .next t => .next (f t)
  | .fault e => .fault e
  | .refused r => .refused r

/-- The read-out operations that return data, and CKGET. -/
def returnsData : Instr → Bool
  | .rdreg _ => true
  | .rxrd _ => true
  | .txrd _ => true
  | .ckget => true
  | _ => false

/-- The four conditions under which CONSTRUCT encodes (R116). -/
def constructReady (s : State) : Prop :=
  s.gen = true ∧ s.txp.payloadLen.toNat ≤ s.cfg.lenMaxPayload.toNat ∧
    12 + s.txp.payloadLen.toNat ≤ s.tx.len.toNat ∧ s.txp.moduleId ∈ s.cfg.validModules

end Sys2Proof.Claim

open Sys2Proof Sys2Proof.Machine Sys2Proof.Claim

/-! ### Encoding and stepping -/

/-- The words of 95_test_vectors.md section 2.8, as the encodings of R81 and R83 give them. (TXPAY 65535
is written here from R81; the vector printed there contradicts R81 and R83, log 17.) -/
def Obligations.DecodeOfSpecWords : Prop :=
  decode 0x0100000040 = .ok (.generate 64) ∧ decode 0x0200000000 = .ok .destroy ∧
  decode 0x0300000000 = .ok .flushtx ∧ decode 0x0400000000 = .ok .flushrx ∧
  decode 0x0500000000 = .ok .flushboth ∧ decode 0x10000000AA = .ok (.rxbyte 0xAA) ∧
  decode 0x1100000000 = .ok .parse ∧ decode 0x2000000005 = .ok (.txmod 5) ∧
  decode 0x21000000CC = .ok (.txcmd 0xCC) ∧ decode 0x2200000003 = .ok (.txlen 3) ∧
  decode 0x23DEADBEEF = .ok (.txflags 0xDEADBEEF) ∧ decode 0x2400000205 = .ok (.txpay 2 5) ∧
  decode 0x2400FFFFFF = .ok (.txpay 65535 0xFF) ∧ decode 0x2500000000 = .ok .construct ∧
  decode 0x3000000024 = .ok (.rdreg 0x24) ∧ decode 0x310000000F = .ok (.rxrd 15) ∧
  decode 0x320000000C = .ok (.txrd 12) ∧ decode 0x4000000000 = .ok .ckclr ∧
  decode 0x41000000CC = .ok (.ckadd 0xCC) ∧ decode 0x4200000000 = .ok .ckget

/-- Decoding the word of a well-formed operation gives the operation back, with every operand (R80,
R81, R83). -/
def Obligations.DecodeEncodeRoundTrip : Prop :=
  ∀ i : Instr, i.wellFormed = true → decode (encode i) = .ok i

/-- A word that decodes is the word of the operation it decodes to, and that operation is well formed:
no legal word has a second meaning and no bit is ignored (R81, R83, R91). -/
def Obligations.EncodeDecodeRoundTrip : Prop :=
  ∀ (w : CmdWord) (i : Instr), decode w = .ok i → encode i = w ∧ i.wellFormed = true

/-- R83, its printed table: "A word `w` selects the row for which `w & mask = match`"; at most one row;
RDREG's selector must be listed too; and the operation is the row's. -/
def Obligations.DecodeAgreesWithOpcodeMap : Prop :=
  opcodeMap.map (fun r => (r.mnemonic, r.pattern, r.mask)) = printedMap ∧
  (∀ w : CmdWord, (∃ i, decode w = .ok i) ↔
    ∃ r ∈ printedMap, w &&& r.2.2 = r.2.1 ∧
      (r.1 = "RDREG" → w.extractLsb' 0 8 ∈ printedSelectors)) ∧
  (∀ (w : CmdWord) (i : Instr), decode w = .ok i →
    ∃ r ∈ printedMap, w &&& r.2.2 = r.2.1 ∧ r.1 = i.mnemonic) ∧
  (∀ (w : CmdWord), ∀ r ∈ printedMap, ∀ q ∈ printedMap,
    w &&& r.2.2 = r.2.1 → w &&& q.2.2 = q.2.1 → r = q)

/-- R81: which bits of `arg` an operand is, and which bits must be zero, for each shape. -/
def Obligations.OperandFieldsOfEachShape : Prop :=
  ∀ (w : CmdWord) (i : Instr), decode w = .ok i →
    match i with
    | .destroy | .flushtx | .flushrx | .flushboth | .parse | .construct | .ckclr | .ckget =>
      w.extractLsb' 0 32 = 0#32
    | .rxbyte b | .txmod b | .txcmd b | .ckadd b | .rdreg b =>
      b = w.extractLsb' 0 8 ∧ w.extractLsb' 8 24 = 0#24
    | .generate h | .txlen h | .rxrd h | .txrd h =>
      h = w.extractLsb' 0 16 ∧ w.extractLsb' 16 16 = 0#16
    | .txflags v => v = w.extractLsb' 0 32
    | .txpay idx b => idx = w.extractLsb' 8 16 ∧ b = w.extractLsb' 0 8 ∧ w.extractLsb' 24 8 = 0#8

/-- R91 and R189: exactly the words of R91 (a), (b), (c) do not decode, and such a word raises
IllegalCommand: no state changes, no response is returned, the block is ready for the next word. That
this is a next state and not a refusal is the model's choice (log 5). -/
def Obligations.IllegalWordChangesNothing : Prop :=
  (∀ w : CmdWord, (∃ e, decode w = .error e) ↔ illegal w) ∧
  ∀ (s : State) (w : CmdWord) (rest : List Input), s.pending = .command w :: rest → illegal w →
    step s = .next { s with pending := rest, result := some (.illegalCommand w) }

/-- A step runs the decoded operation: the first word issued, on the state with that word taken from the
port, and adds nothing around it (R58, R59, R80; the port is log 4). -/
def Obligations.StepRunsTheDecodedOperation : Prop :=
  ∀ (s : State) (w : CmdWord) (rest : List Input) (i : Instr),
    s.pending = .command w :: rest → decode w = .ok i → step s = exec i { s with pending := rest }

/-- R13: the block "does one operation when a command arrives and nothing otherwise". The idle step is
the model's reading of it (log 6). -/
def Obligations.QuiescentWithoutACommand : Prop :=
  ∀ s : State, s.pending = [] → step s = .next s

/-- R200, R43 (decision D30): reset puts every register at its reset value; configuration survives (R201).
The state right after reset has the same values. That a reset stands in `pending`, and that it leaves
nothing handed back, is the model's choice (logs 4 and 8). -/
def Obligations.ResetRestoresEveryRegister : Prop :=
  registersReset State.reset ∧
  ∀ (s : State) (rest : List Input), s.pending = .reset :: rest →
    ∃ t, step s = .next t ∧ registersReset t ∧ t.cfg = s.cfg ∧ t.pending = rest ∧ t.result = none

/-- R59: command words are handled one at a time in the order the host issued them, each seeing the
effects of all earlier ones. That order is the model's list `pending` (logs 4 and 9). -/
def Obligations.CommandsRunInIssueOrder : Prop :=
  ∀ (is : List Instr) (s : State), (∀ i ∈ is, i.wellFormed = true) →
    Host.Core.run Sys2Proof.core is.length { s with pending := issued is } =
      runInstrs is { s with pending := [] }

/-! ### Checksum Unit -/

/-- R100: `checksum16(b) = 0xFFFF - (sum mod 0x10000)`. -/
def Obligations.ChecksumIsComplementOfTheSum : Prop :=
  ∀ bytes : List Byte, (checksum16 bytes).toNat = 65535 - byteTotal bytes % 65536

/-- R103: determinism, single-bit sensitivity, order blindness, concatenation. -/
def Obligations.ChecksumLaws : Prop :=
  (∀ x y : List Byte, x = y → checksum16 x = checksum16 y) ∧
  (∀ (x : List Byte) (i k : Nat), i < x.length → k < 8 →
    checksum16 (x.set i (x.getD i 0 ^^^ (1#8 <<< k))) ≠ checksum16 x) ∧
  (∀ x y : List Byte, x.Perm y → checksum16 x = checksum16 y) ∧
  (∀ x y : List Byte, 65535 - (checksum16 (x ++ y)).toNat =
    ((65535 - (checksum16 x).toNat) + (65535 - (checksum16 y).toNat)) % 65536)

/-- R102: the empty range, one byte, the wrap at 258 bytes of 0xFF, and every value occurs. -/
def Obligations.ChecksumCorners : Prop :=
  checksum16 [] = 0xFFFF ∧
  (∀ v : Byte, (checksum16 [v]).toNat = 65535 - v.toNat) ∧
  checksum16 (List.replicate 257 0xFF) = 0 ∧
  checksum16 (List.replicate 258 0xFF) = 0xFF01 ∧
  ∀ k : Half, ∃ bytes, checksum16 bytes = k

/-- R105, R106, R107 (decision D23): the three operations of the streaming port. -/
def Obligations.ChecksumPortOperations : Prop :=
  (∀ s : State, encodedAs .ckclr 0x40 0 ∧
    exec .ckclr s = .next { s with ck := 0, result := some (.response ⟨0, false, 0⟩) }) ∧
  (∀ (s : State) (b : Byte), encodedAs (.ckadd b) 0x41 (b.setWidth 32) ∧
    exec (.ckadd b) s =
      .next { s with ck := BitVec.ofNat 16 ((s.ck.toNat + b.toNat) % 65536),
                     result := some (.response ⟨0, false, 0⟩) }) ∧
  (∀ s : State, encodedAs .ckget 0x42 0 ∧
    exec .ckget s =
      .next { s with result := some (.response ⟨0, false, BitVec.ofNat 32 (65535 - s.ck.toNat)⟩) })

/-- R108: after `CKCLR; CKADD b[0]; ...; CKADD b[n-1]`, CKGET returns `checksum16(b)`; the sequence
changes nothing but `ck` and the response. -/
def Obligations.PortComputesTheChecksum : Prop :=
  ∀ (bytes : List Byte) (s : State), ∃ t, runInstrs (cksum bytes) s = .next t ∧
    handsBack t 0 false ((checksum16 bytes).setWidth 32) ∧
    t = { s with ck := t.ck, result := t.result }

/-- R104, R108: no operation but CKCLR, CKADD, CKGET and RDREG 0x30 depends on `ck` or writes it. RDREG's
selector 0x30 (R161) is left out because it shows `ck` (log 12). -/
def Obligations.OnlyTheChecksumPortUsesTheAccumulator : Prop :=
  ∀ (i : Instr) (s : State) (k : Half), i ≠ .ckclr → (∀ b, i ≠ .ckadd b) → i ≠ .ckget →
    i ≠ .rdreg 0x30 →
    exec i { s with ck := k } = mapNext (fun t => { t with ck := k }) (exec i s)

/-! ### Frame Codec, encode side -/

/-- R110 to R113 (decision D27): the four register writes. -/
def Obligations.SendPacketRegisterWrites : Prop :=
  (∀ (s : State) (v : Byte), encodedAs (.txmod v) 0x20 (v.setWidth 32) ∧
    exec (.txmod v) s = .next { s with txp := { s.txp with moduleId := v },
                                       result := some (.response ⟨0, false, 0⟩) }) ∧
  (∀ (s : State) (v : Byte), encodedAs (.txcmd v) 0x21 (v.setWidth 32) ∧
    exec (.txcmd v) s = .next { s with txp := { s.txp with cmd := v },
                                       result := some (.response ⟨0, false, 0⟩) }) ∧
  (∀ (s : State) (v : Half), encodedAs (.txlen v) 0x22 (v.setWidth 32) ∧
    exec (.txlen v) s = .next { s with txp := { s.txp with payloadLen := v },
                                       result := some (.response ⟨0, false, 0⟩) }) ∧
  (∀ (s : State) (v : Word), encodedAs (.txflags v) 0x23 v ∧
    exec (.txflags v) s = .next { s with txp := { s.txp with flags := v },
                                         result := some (.response ⟨0, false, 0⟩) })

/-- R114: TXPAY stores one byte at `5 + idx`, or fails without storing. Every cell but that one reads as
before, in both buffers. -/
def Obligations.TxpayStagesOneByte : Prop :=
  ∀ (s : State) (idx : Half) (b : Byte),
    encodedAs (.txpay idx b) 0x24 (BitVec.ofNat 32 (256 * idx.toNat + b.toNat)) ∧
    (s.gen = false → rejects (.txpay idx b) s 0x01) ∧
    (s.tx.len.toNat ≤ 5 + idx.toNat → rejects (.txpay idx b) s 0x01) ∧
    (s.gen = true → 5 + idx.toNat < s.tx.len.toNat →
      ∃ t, exec (.txpay idx b) s = .next t ∧
        t = { s with tx := ⟨s.tx.len, s.tx.idx, t.tx.mem⟩, result := some (.response ⟨0, false, 0⟩) } ∧
        ∀ i, t.cell .tx i = if i = 5 + idx.toNat then b else s.cell .tx i)

/-- R116, R117: each failing check of CONSTRUCT is ORed into the mask, and a CONSTRUCT that fails writes
`txp.error` and nothing else. -/
def Obligations.ConstructChecksBeforeItWrites : Prop :=
  ∀ s : State,
    let l := s.txp.payloadLen.toNat
    let err : Word :=
      (if s.cfg.lenMaxPayload.toNat < l then 0x04 else 0) |||
      (if s.gen = false ∨ s.tx.len.toNat < 12 + l then 0x01 else 0) |||
      (if s.txp.moduleId ∉ s.cfg.validModules then 0x08 else 0)
    encodedAs .construct 0x25 0 ∧
    (12 ≤ s.tx.len.toNat → (s.tx.len.toNat < 12 + l ↔ (payloadMax s .tx).toNat < l)) ∧
    (err ≠ 0 → exec .construct s =
      .next { s with txp := { s.txp with error := err },
                     result := some (.response ⟨err, false, 0⟩) })

/-- R118, R119: a CONSTRUCT whose checks pass leaves the frame of the send Packet and the staged payload
in `tx.mem[0 .. 11+L]`, sets `tx.idx` and clears `txp.error`; the payload cells, every cell at or above
`12 + L` and everything else are unchanged; a second CONSTRUCT changes nothing. -/
def Obligations.ConstructWritesTheFrame : Prop :=
  ∀ s : State, StorageInv s → constructReady s →
    ∃ t, exec .construct s = .next t ∧
      t = { s with tx := ⟨s.tx.len, BitVec.ofNat 16 (12 + s.txp.payloadLen.toNat), t.tx.mem⟩,
                   txp := { s.txp with error := 0 },
                   result := some (.response ⟨0, false, 0⟩) } ∧
      t.window .tx 0 (12 + s.txp.payloadLen.toNat) =
        frameEncode s.txp.moduleId s.txp.cmd (s.window .tx 5 s.txp.payloadLen.toNat) s.txp.flags ∧
      (∀ i, 12 + s.txp.payloadLen.toNat ≤ i → t.cell .tx i = s.cell .tx i) ∧
      exec .construct t = .next t

/-- R71 to R75: where each field of an encoded frame stands and what it holds, in numbers. -/
def Obligations.FrameFieldOffsets : Prop :=
  ∀ (m c : Byte) (p : List Byte) (f : Word), p.length ≤ 65535 →
    let fr := frameEncode m c p f
    let l := p.length
    fr.length = 12 + l ∧ fr.getD 0 0 = 0x01 ∧ fr.getD 1 0 = m ∧ fr.getD 2 0 = c ∧
    256 * num fr 3 + num fr 4 = l ∧
    (fr.drop 5).take l = p ∧
    2 ^ 24 * num fr (5 + l) + 2 ^ 16 * num fr (6 + l) + 2 ^ 8 * num fr (7 + l) + num fr (8 + l) =
      f.toNat ∧
    256 * num fr (9 + l) + num fr (10 + l) = 65535 - byteTotal ((fr.drop 1).take (8 + l)) % 65536 ∧
    fr.getD (11 + l) 0 = 0xAA

/-- R122: the source's two frames, through the hardware: the operations of TXPKT (R94) leave them in the
send buffer, with `tx.idx` 15 and 12. -/
def Obligations.WorkedFramesOfTheSource : Prop :=
  ∀ s : State, s.gen = true → (5 : Byte) ∈ s.cfg.validModules → 3 ≤ s.cfg.lenMaxPayload.toNat →
    15 ≤ s.tx.len.toNat →
    (∃ t, runInstrs (txpkt 5 0xCC [0x01, 0x03, 0x05] 0) s = .next t ∧ t.tx.idx = 15 ∧
      t.window .tx 0 15 =
        [0x01, 0x05, 0xCC, 0x00, 0x03, 0x01, 0x03, 0x05, 0x00, 0x00, 0x00, 0x00, 0xFF, 0x22, 0xAA]) ∧
    (∃ t, runInstrs (txpkt 5 0xCC [] 1) s = .next t ∧ t.tx.idx = 12 ∧
      t.window .tx 0 12 =
        [0x01, 0x05, 0xCC, 0x00, 0x00, 0x00, 0x00, 0x00, 0x01, 0xFF, 0x2D, 0xAA])

/-! ### Frame Codec, decode side -/

/-- R126: the checks of parseFrame, in their order, each in numbers. -/
def Obligations.ValidationOrder : Prop :=
  ∀ (cfg : Config) (buf : List Byte),
    let l := frameLen buf
    parseFrame cfg buf =
      if buf.length < 12 ∨ buf.length < 12 + l then .error .incomplete
      else if buf.getD 0 0 ≠ 0x01 then .error .startSym
      else if buf.getD 1 0 ∉ cfg.validModules then .error .module
      else if 65535 - byteTotal ((buf.drop 1).take (8 + l)) % 65536 ≠
          256 * num buf (9 + l) + num buf (10 + l) then .error .checksum
      else if buf.getD (11 + l) 0 ≠ 0xAA then .error .endSym
      else .ok ⟨buf.getD 1 0, buf.getD 2 0, BitVec.ofNat 16 l,
        BitVec.ofNat 32 (2 ^ 24 * num buf (5 + l) + 2 ^ 16 * num buf (6 + l) + 2 ^ 8 * num buf (7 + l)
          + num buf (8 + l))⟩

/-- R130: what corrupting one field of a valid frame yields, and which error wins when several are bad,
down the order start symbol, module id, checksum, end symbol. -/
def Obligations.CorruptionYieldsTheFirstError : Prop :=
  ∀ (cfg : Config) (fr : List Byte) (r : Fields), parseFrame cfg fr = .ok r →
    let l := frameLen fr
    (∀ b : Byte, b ≠ 0x01 → parseFrame cfg (fr.set 0 b) = .error .startSym) ∧
    (∀ b : Byte, b ∉ cfg.validModules → parseFrame cfg (fr.set 1 b) = .error .module) ∧
    (∀ x y : Byte, (x ≠ fr.getD (9 + l) 0 ∨ y ≠ fr.getD (10 + l) 0) →
      parseFrame cfg ((fr.set (9 + l) x).set (10 + l) y) = .error .checksum) ∧
    (∀ b : Byte, b ≠ 0xAA → parseFrame cfg (fr.set (11 + l) b) = .error .endSym) ∧
    (∀ a b : Byte, a ≠ 0x01 → b ∉ cfg.validModules →
      parseFrame cfg ((fr.set 0 a).set 1 b) = .error .startSym) ∧
    (∀ a x y b : Byte, a ≠ 0x01 →
      parseFrame cfg ((((fr.set 0 a).set (9 + l) x).set (10 + l) y).set (11 + l) b) =
        .error .startSym) ∧
    (∀ a x y b : Byte, a ∉ cfg.validModules →
      parseFrame cfg ((((fr.set 1 a).set (9 + l) x).set (10 + l) y).set (11 + l) b) =
        .error .module) ∧
    (∀ x y b : Byte, (x ≠ fr.getD (9 + l) 0 ∨ y ≠ fr.getD (10 + l) 0) →
      parseFrame cfg (((fr.set (9 + l) x).set (10 + l) y).set (11 + l) b) = .error .checksum)

/-- R131: a single-bit error in bytes `1 .. 8+L` of a valid frame, other than the length bytes, is
reported as CHECKSUM, or as MODULE in byte 1. -/
def Obligations.SingleBitErrorsAreCaught : Prop :=
  ∀ (cfg : Config) (fr : List Byte) (r : Fields) (i k : Nat), parseFrame cfg fr = .ok r →
    1 ≤ i → i ≤ 8 + frameLen fr → i ≠ 3 → i ≠ 4 → k < 8 →
    parseFrame cfg (fr.set i (fr.getD i 0 ^^^ (1#8 <<< k))) =
      (if i = 1 ∧ (fr.getD 1 0 ^^^ (1#8 <<< k)) ∉ cfg.validModules then .error .module
       else .error .checksum)

/-- R127: INCOMPLETE is reported exactly for a buffer with fewer than 12 bytes or fewer than `12 + L`,
whatever else is wrong with it; so every truncated frame yields it. -/
def Obligations.ShortBuffersAreIncomplete : Prop :=
  (∀ (cfg : Config) (buf : List Byte), parseFrame cfg buf = .error .incomplete ↔
    buf.length < 12 ∨ buf.length < 12 + frameLen buf) ∧
  (∀ (cfg : Config) (m c : Byte) (p : List Byte) (f : Word) (n : Nat), p.length ≤ 65535 →
    n < 12 + p.length → parseFrame cfg ((frameEncode m c p f).take n) = .error .incomplete)

/-- R125: PARSE records what parseFrame makes of the bytes below `rx.idx`: `rxp.error` always, the other
four fields on success only; the buffers, the cursors and `asm` are unchanged, and a second PARSE gives
the same result. -/
def Obligations.ParseRecordsTheResult : Prop :=
  ∀ s : State, encodedAs .parse 0x11 0 ∧
    (s.gen = false → exec .parse s =
      .next { s with rxp := { s.rxp with error := 0x01 },
                     result := some (.response ⟨0x01, false, 0⟩) }) ∧
    (s.gen = true → s.rx.idx.toNat ≤ s.rx.len.toNat →
      (∀ k, parseFrame s.cfg (s.window .rx 0 s.rx.idx.toNat) = .error k →
        exec .parse s = .next { s with rxp := { s.rxp with error := errBit k },
                                       result := some (.response ⟨errBit k, false, 0⟩) }) ∧
      (∀ r, parseFrame s.cfg (s.window .rx 0 s.rx.idx.toNat) = .ok r →
        exec .parse s = .next { s with rxp := ⟨r.moduleId, r.cmd, r.payloadLen, r.flags, 0⟩,
                                       result := some (.response ⟨0, false, 0⟩) })) ∧
    ∀ t, exec .parse s = .next t → exec .parse t = .next t

/-- R129: with storage and the assembler sound, PARSE reports INCOMPLETE exactly when `asm` is not
COMPLETE, and never START_SYM. -/
def Obligations.ParseIncompleteUnlessComplete : Prop :=
  ∀ s : State, StorageInv s → AssemblerInv s → s.gen = true →
    ∃ t err, exec .parse s = .next t ∧ handsBack t err false 0 ∧
      (err = 0x80 ↔ s.asm ≠ .complete) ∧ err ≠ 0x10

/-- R26: after a successful PARSE, `payloadLen <= payloadMax` holds for the receive Packet. -/
def Obligations.ParsedPayloadFitsTheBuffer : Prop :=
  ∀ s t : State, s.gen = true → exec .parse s = .next t → handsBack t 0 false 0 →
    12 + t.rxp.payloadLen.toNat ≤ t.rx.idx.toNat ∧
    t.rxp.payloadLen.toNat ≤ (payloadMax t .rx).toNat

/-- R120, the pure part: decoding an encoded packet of a registered module gives its fields back. -/
def Obligations.ParseInvertsEncode : Prop :=
  ∀ (cfg : Config) (m c : Byte) (p : List Byte) (f : Word), m ∈ cfg.validModules →
    p.length ≤ 65535 →
    parseFrame cfg (frameEncode m c p f) = .ok ⟨m, c, BitVec.ofNat 16 p.length, f⟩ ∧
    ((frameEncode m c p f).drop 5).take p.length = p

/-- R120, through the hardware: the bytes of a constructed frame, fed back into a flushed receive side,
complete a frame that PARSE decodes to the send Packet and its payload. -/
def Obligations.LoopbackRoundTrip : Prop :=
  ∀ s : State, StorageInv s → constructReady s → s.asm = .awaitStart → s.rx.idx = 0 →
    ∃ t u v, exec .construct s = .next t ∧
      runInstrs (rxframe (t.window .tx 0 t.tx.idx.toNat)) t = .next u ∧ handsBack u 0 true 0 ∧
      exec .parse u = .next v ∧ handsBack v 0 false 0 ∧
      v.rxp = { v.txp with error := 0 } ∧
      v.txp = { s.txp with error := 0 } ∧
      v.window .rx 5 v.rxp.payloadLen.toNat = s.window .tx 5 s.txp.payloadLen.toNat

/-! ### Receive Assembler -/

/-- R135, with R142 and R143: RXBYTE, row by row of the spec's transition table (R144), with the whole
effect of an accepted byte (the cell at the cursor, the cursor, `asm`) and the unchanged state of a
discarded one. The state's soundness is an invariant (StepKeepsStorage, StepKeepsTheAssembler). -/
def Obligations.RxbyteTransitionTable : Prop :=
  ∀ (s : State) (b : Byte), StorageInv s → AssemblerInv s →
    let idx := s.rx.idx.toNat
    let len := s.rx.len.toNat
    let l := rxLength s
    encodedAs (.rxbyte b) 0x10 (b.setWidth 32) ∧
    (s.gen = false → rejects (.rxbyte b) s 0x01) ∧
    (s.gen = true →
      (s.asm = .awaitStart → b ≠ 0x01 → rejects (.rxbyte b) s 0x10) ∧
      (s.asm = .awaitStart → b = 0x01 → len = 0 → rejects (.rxbyte b) s 0x01) ∧
      (s.asm = .awaitStart → b = 0x01 → 0 < len → accepts s b .collectingHeader false) ∧
      (s.asm = .collectingHeader → idx = len → rejects (.rxbyte b) s 0x01) ∧
      (s.asm = .collectingHeader → idx < len → idx < 4 → accepts s b .collectingHeader false) ∧
      (s.asm = .collectingHeader → idx < len → idx = 4 →
        0 < 256 * (s.cell .rx 3).toNat + b.toNat → accepts s b .collectingPayload false) ∧
      (s.asm = .collectingHeader → idx < len → idx = 4 →
        256 * (s.cell .rx 3).toNat + b.toNat = 0 → accepts s b .collectingTail false) ∧
      (s.asm = .collectingPayload → idx = len → rejects (.rxbyte b) s 0x01) ∧
      (s.asm = .collectingPayload → idx < len → idx < 4 + l → accepts s b .collectingPayload false) ∧
      (s.asm = .collectingPayload → idx < len → idx = 4 + l → accepts s b .collectingTail false) ∧
      (s.asm = .collectingTail → idx = len → rejects (.rxbyte b) s 0x01) ∧
      (s.asm = .collectingTail → idx < len → idx < 11 + l → accepts s b .collectingTail false) ∧
      (s.asm = .collectingTail → idx < len → idx = 11 + l → accepts s b .complete true) ∧
      (s.asm = .complete → rejects (.rxbyte b) s 0x02))

/-- R145: from a flushed, generated state a frame takes exactly `12 + L` bytes, the last of which carries
the completion signal; a buffer that is too short accepts `rx.len` bytes and answers the next one with
ERR_MEMORY, and the frame never completes. -/
def Obligations.AssemblerCountsTheFrame : Prop :=
  ∀ (s : State) (bytes : List Byte), StorageInv s → s.gen = true → s.asm = .awaitStart →
    s.rx.idx = 0 → bytes.length = 12 + frameLen bytes → bytes.getD 0 0 = 0x01 →
    (12 + frameLen bytes ≤ s.rx.len.toNat →
      (∀ n, 1 ≤ n → n < 12 + frameLen bytes →
        ∃ t, runInstrs (rxframe (bytes.take n)) s = .next t ∧ handsBack t 0 false 0 ∧
          t.rx.idx.toNat = n ∧ t.asm ≠ .complete) ∧
      ∃ t, runInstrs (rxframe bytes) s = .next t ∧ handsBack t 0 true 0 ∧ t.asm = .complete ∧
        t.window .rx 0 (12 + frameLen bytes) = bytes) ∧
    (s.rx.len.toNat < 12 + frameLen bytes →
      (∀ n, 1 ≤ n → n ≤ s.rx.len.toNat →
        ∃ t, runInstrs (rxframe (bytes.take n)) s = .next t ∧ handsBack t 0 false 0 ∧
          t.rx.idx.toNat = n) ∧
      (∃ t, runInstrs (rxframe (bytes.take (s.rx.len.toNat + 1))) s = .next t ∧
        handsBack t 0x01 false 0) ∧
      ∀ n, ∃ t, runInstrs (rxframe (bytes.take n)) s = .next t ∧ t.asm ≠ .complete)

/-! ### Buffer Lifecycle -/

/-- R150: GENERATE. Both conditions are ORed (decision D31); a failing GENERATE changes nothing; a
successful one gives two buffers of that capacity in which no cell has been written, so that every cell
reads as a free value (R24; how the model holds that is logs 2 and 3). -/
def Obligations.GenerateAllocatesBothBuffers : Prop :=
  ∀ (n : Half) (s : State), encodedAs (.generate n) 0x01 (n.setWidth 32) ∧
    (s.gen = true → n.toNat ≤ s.cfg.blockLenMax.toNat → rejects (.generate n) s 0x02) ∧
    (s.gen = false → s.cfg.blockLenMax.toNat < n.toNat → rejects (.generate n) s 0x01) ∧
    (s.gen = true → s.cfg.blockLenMax.toNat < n.toNat → rejects (.generate n) s 0x03) ∧
    (s.gen = false → n.toNat ≤ s.cfg.blockLenMax.toNat →
      ∃ t, exec (.generate n) s = .next t ∧
        t = { s with gen := true, tx := ⟨n, 0, t.tx.mem⟩, rx := ⟨n, 0, t.rx.mem⟩, asm := .awaitStart,
                     epoch := t.epoch, result := some (.response ⟨0, false, 0⟩) } ∧
        ∀ i, t.tx.mem.lookup i = none ∧ t.rx.mem.lookup i = none)

/-- R151: DESTROY. Only the accumulator (and the configuration) survives a successful one. -/
def Obligations.DestroyLeavesOnlyTheAccumulator : Prop :=
  ∀ s : State, encodedAs .destroy 0x02 0 ∧
    (s.gen = false → rejects .destroy s 0x01) ∧
    (s.gen = true → ∃ t, exec .destroy s = .next t ∧ registersReset { t with ck := 0 } ∧
      t.ck = s.ck ∧ t.cfg = s.cfg ∧ t.pending = s.pending ∧ handsBack t 0 false 0)

/-- R152, R153, R154: the flushes rewind cursors (and the assembler) and touch no cell; FLUSHBOTH is
FLUSHTX followed by FLUSHRX. -/
def Obligations.FlushesRewindCursorsOnly : Prop :=
  ∀ s : State,
    encodedAs .flushtx 0x03 0 ∧ encodedAs .flushrx 0x04 0 ∧ encodedAs .flushboth 0x05 0 ∧
    (s.gen = false → rejects .flushtx s 0x01 ∧ rejects .flushrx s 0x01 ∧ rejects .flushboth s 0x01) ∧
    (s.gen = true →
      exec .flushtx s = .next { s with tx := { s.tx with idx := 0 },
                                       result := some (.response ⟨0, false, 0⟩) } ∧
      exec .flushrx s = .next { s with rx := { s.rx with idx := 0 }, asm := .awaitStart,
                                       result := some (.response ⟨0, false, 0⟩) } ∧
      exec .flushboth s = .next { s with tx := { s.tx with idx := 0 }, rx := { s.rx with idx := 0 },
                                         asm := .awaitStart,
                                         result := some (.response ⟨0, false, 0⟩) } ∧
      runInstrs [.flushtx, .flushrx] s = exec .flushboth s)

/-- R21: `gen` is 0 at reset; only GENERATE sets it, with a block length within the maximum (R155), and
only DESTROY clears it. -/
def Obligations.OnlyGenerateSetsAndDestroyClearsGen : Prop :=
  State.reset.gen = false ∧ ∀ (i : Instr) (s t : State), exec i s = .next t →
    (s.gen = false → t.gen = true → ∃ n, i = .generate n ∧ n.toNat ≤ s.cfg.blockLenMax.toNat) ∧
    (s.gen = true → t.gen = false → i = .destroy)

/-! ### Read-out -/

/-- R161 (decision D21), with R26, R38, R39, R40: RDREG returns the selected register's value, for each
of the nineteen selectors; an unlisted one raises IllegalCommand, which the model takes as a next state
(log 5). Selector 0x30 reads `ck` (log 12). -/
def Obligations.RdregReturnsTheSelectedRegister : Prop :=
  ∀ s : State, StorageInv s →
    (∀ p ∈ selectorValues s, encodedAs (.rdreg p.1) 0x30 (p.1.setWidth 32) ∧
      exec (.rdreg p.1) s =
        .next { s with result := some (.response ⟨0, false, BitVec.ofNat 32 p.2⟩) }) ∧
    (∀ sel : Byte, sel ∉ printedSelectors →
      exec (.rdreg sel) s =
        .next { s with result := some (.illegalCommand (0x30#8 ++ sel.setWidth 32)) }) ∧
    (selectorValues s).map Prod.fst = printedSelectors ∧ listedSelectors = printedSelectors

/-- R162, R163 (decision D26): RXRD and TXRD return the byte below the cursor, or ERR_MEMORY. -/
def Obligations.BytesBelowTheCursorAreReadable : Prop :=
  ∀ (s : State) (idx : Half), StorageInv s →
    encodedAs (.rxrd idx) 0x31 (idx.setWidth 32) ∧ encodedAs (.txrd idx) 0x32 (idx.setWidth 32) ∧
    (s.gen = false → rejects (.rxrd idx) s 0x01 ∧ rejects (.txrd idx) s 0x01) ∧
    (s.rx.idx.toNat ≤ idx.toNat → rejects (.rxrd idx) s 0x01) ∧
    (s.tx.idx.toNat ≤ idx.toNat → rejects (.txrd idx) s 0x01) ∧
    (s.gen = true → idx.toNat < s.rx.idx.toNat →
      answers (.rxrd idx) s (BitVec.ofNat 32 (s.cell .rx idx.toNat).toNat)) ∧
    (s.gen = true → idx.toNat < s.tx.idx.toNat →
      answers (.txrd idx) s (BitVec.ofNat 32 (s.cell .tx idx.toNat).toNat))

/-- R160: read-out changes no register and no cell, whatever the response, and is idempotent. -/
def Obligations.ReadOutChangesNothing : Prop :=
  ∀ (i : Instr) (s t : State),
    ((∃ sel, i = .rdreg sel) ∨ (∃ idx, i = .rxrd idx) ∨ (∃ idx, i = .txrd idx)) →
    exec i s = .next t → t = { s with result := t.result } ∧ exec i t = .next t

/-- 95_test_vectors.md section 2.7: STATUS takes one of six values in a sound state. -/
def Obligations.StatusTakesSixValues : Prop :=
  ∀ s : State, StorageInv s → AssemblerInv s →
    ∃ v ∈ [0x00, 0x01, 0x13, 0x15, 0x17, (0x69 : Word)],
      exec (.rdreg 0x00) s = .next { s with result := some (.response ⟨0, false, v⟩) }

/-! ### Errors, for every operation -/

/-- R190: which error bits each operation can return. -/
def Obligations.ErrorBitsOfEachOperation : Prop :=
  ∀ (i : Instr) (s t : State) (r : Response), exec i s = .next t → t.result = some (.response r) →
    r.err &&& ~~~ possibleErrors i = 0

/-- R194: an operation that reports an error has changed nothing, or only the error register its rule
names: `txp.error` for CONSTRUCT, `rxp.error` for PARSE. -/
def Obligations.ErrorsArePrecise : Prop :=
  ∀ (i : Instr) (s t : State) (r : Response), exec i s = .next t → t.result = some (.response r) →
    r.err ≠ 0 →
    t = { s with txp := { s.txp with error := t.txp.error },
                 rxp := { s.rxp with error := t.rxp.error }, result := t.result } ∧
    (i ≠ .construct → t.txp = s.txp) ∧ (i ≠ .parse → t.rxp = s.rxp)

/-- R82: only RXBYTE can set `complete`, only with `err = 0`; only the operations that return a value
return one, and none returns one with an error. -/
def Obligations.ShapeOfEveryResponse : Prop :=
  ∀ (i : Instr) (s t : State) (r : Response), exec i s = .next t → t.result = some (.response r) →
    (r.complete = true → (∃ b, i = .rxbyte b) ∧ r.err = 0) ∧
    (r.data ≠ 0 → returnsData i = true ∧ r.err = 0)

/-- R28: CONSTRUCT and PARSE overwrite their error register with the mask they return; no other
operation but DESTROY writes one. -/
def Obligations.ErrorRegistersHoldTheLastMask : Prop :=
  ∀ (i : Instr) (s t : State), exec i s = .next t →
    (i = .construct → handsBack t t.txp.error false 0) ∧
    (i = .parse → handsBack t t.rxp.error false 0) ∧
    (i ≠ .construct → i ≠ .destroy → t.txp.error = s.txp.error) ∧
    (i ≠ .parse → i ≠ .destroy → t.rxp.error = s.rxp.error)

/-! ### Frames and invariants over every operation -/

/-- R20, the column "written by", and R51: which operations can change each register and each array. -/
def Obligations.WritersOfEachRegister : Prop :=
  ∀ (i : Instr) (s t : State), exec i s = .next t →
    ((∀ n, i ≠ .generate n) → i ≠ .destroy →
      t.gen = s.gen ∧ t.tx.len = s.tx.len ∧ t.rx.len = s.rx.len ∧ t.epoch = s.epoch ∧
      (i ≠ .construct → i ≠ .flushtx → i ≠ .flushboth → t.tx.idx = s.tx.idx) ∧
      (i ≠ .construct → (∀ k b, i ≠ .txpay k b) → t.tx.mem = s.tx.mem) ∧
      ((∀ b, i ≠ .rxbyte b) → i ≠ .flushrx → i ≠ .flushboth →
        t.rx.idx = s.rx.idx ∧ t.asm = s.asm) ∧
      ((∀ b, i ≠ .rxbyte b) → t.rx.mem = s.rx.mem)) ∧
    (i ≠ .destroy →
      ((∀ v, i ≠ .txmod v) → t.txp.moduleId = s.txp.moduleId) ∧
      ((∀ v, i ≠ .txcmd v) → t.txp.cmd = s.txp.cmd) ∧
      ((∀ v, i ≠ .txlen v) → t.txp.payloadLen = s.txp.payloadLen) ∧
      ((∀ v, i ≠ .txflags v) → t.txp.flags = s.txp.flags) ∧
      (i ≠ .construct → t.txp.error = s.txp.error) ∧
      (i ≠ .parse → t.rxp = s.rxp)) ∧
    (i ≠ .ckclr → (∀ b, i ≠ .ckadd b) → t.ck = s.ck) ∧
    t.cfg = s.cfg ∧ t.pending = s.pending

/-- R43, R201: no step, reset included, touches the configuration parameters, which the model holds in
State (log 1). -/
def Obligations.ConfigurationIsNeverTouched : Prop :=
  ∀ s t : State, step s = .next t → t.cfg = s.cfg

/-- The state after reset meets every invariant. -/
def Obligations.ResetMeetsTheInvariants : Prop := BlockInv State.reset

/-- R22, R23, R50: equal capacities, cursors within them, arrays in canonical form and within the
capacity, no storage while not generated: kept by every step. -/
def Obligations.StepKeepsStorage : Prop :=
  ∀ s t : State, StorageInv s → step s = .next t → StorageInv t

/-- R32 and R53: the tie between `asm`, `rx.idx` and the collected bytes is kept by every step. -/
def Obligations.StepKeepsTheAssembler : Prop :=
  ∀ s t : State, AssemblerInv s → step s = .next t → AssemblerInv t

/-- R25 and R53: `tx.idx` is 0 or the length of the frame in the send buffer, kept by every step. -/
def Obligations.StepKeepsTheSendFrame : Prop :=
  ∀ s t : State, SendInv s → step s = .next t → SendInv t

/-- R78 and R82: bits 31 to 8 of every mask are 0 and `complete = 1` implies `err = 0`, kept by every
step. -/
def Obligations.StepKeepsTheErrorMasks : Prop :=
  ∀ s t : State, ErrorInv s → step s = .next t → ErrorInv t

/-- R54, R180: from a sound state the block never stops: no access leaves its storage, no error ends the
run, however many commands follow. -/
def Obligations.SoundStatesNeverStop : Prop :=
  ∀ s : State, StorageInv s → AssemblerInv s → SafeRun s

/-! ### Ownership, hazards, and the driver -/

/-- R65: after a flush of the receive side or a DESTROY every RXRD is refused; a flush keeps the receive
Packet. -/
def Obligations.FlushMakesTheFrameUnreachable : Prop :=
  ∀ (i : Instr) (s t : State) (idx : Half), i = .flushrx ∨ i = .flushboth ∨ i = .destroy →
    exec i s = .next t → rejects (.rxrd idx) t 0x01 ∧ (i ≠ .destroy → t.rxp = s.rxp)

/-- R208: a TXPAY that changes a payload byte under a finished frame makes the frame fail with CHECKSUM
at the receiver. -/
def Obligations.StagingUnderAFinishedFrameBreaksIt : Prop :=
  ∀ (s t u : State) (k : Half) (b : Byte), exec .construct s = .next t → handsBack t 0 false 0 →
    k.toNat < t.txp.payloadLen.toNat → b ≠ t.cell .tx (5 + k.toNat) →
    exec (.txpay k b) t = .next u →
    handsBack u 0 false 0 ∧
    parseFrame u.cfg (u.window .tx 0 u.tx.idx.toNat) = .error .checksum

/-- R175: after `handleFrame`, whatever the callbacks answered and whatever arrived meanwhile, the receive side is back at its start and
both cursors are 0. The driver stands outside the block (R4 (e), log 11). -/
def Obligations.HandleFrameLeavesTheChannelReady : Prop :=
  ∀ (env : Environment) (d : Driver), StorageInv d.block → AssemblerInv d.block → d.block.gen = true →
    ∃ d', handleFrame env d = .next d' ∧ d'.block.asm = .awaitStart ∧ d'.block.rx.idx = 0 ∧
      d'.block.tx.idx = 0 ∧ d'.block.gen = true

/-- R171 and R170: however far SERVICE has come, and whatever arrived while it ran, the bytes it has read,
followed by those still queued, are exactly the bytes queued at its start followed by those the
transport has appended since, in that order: each byte is consumed once, accepted or not. SERVICE
returns only with an empty queue. The driver stands outside the block (log 11). -/
def Obligations.ServiceConsumesEachByteOnce : Prop :=
  ∀ (env : Environment) (d : Driver) (n : Nat) (p : Progress), serviceFor env n d = .next p →
    d.moment ≤ p.driver.moment ∧
    p.driver.consumed ++ p.driver.input =
      d.consumed ++ d.input ++ env.arrivals d.moment (p.driver.moment - d.moment) ∧
    (∀ d', p = .returned d' → d'.input = [])

/-- R171: "The loop ends when the transport has no byte". From a generated sound block, once the transport
falls silent, SERVICE returns, whatever the callbacks answer and however many frames are bad; before
that it never stops on a fault or a refusal. -/
def Obligations.ServiceReturnsOnceTheTransportIsSilent : Prop :=
  ∀ (env : Environment) (d : Driver), StorageInv d.block → AssemblerInv d.block →
    d.block.gen = true →
    (∀ n, ∃ p, serviceFor env n d = .next p) ∧
    (∀ m, (∀ n, m ≤ n → env.arrive n = []) →
      ∃ d', ServiceReturns env d d' ∧ d'.input = [] ∧ d'.block.gen = true)
end

