-- ==== Sys2Proof/Laws/Decode.lean ====
section
/-! SUPPORT. Small lemmas of the command word: its two fields, the tables read in both directions, and what
an operand placed in `arg` reads as. -/

namespace Sys2Proof

theorem cmdWord_toNat (op : Byte) (arg : Word) :
    (cmdWord op arg).toNat = op.toNat * 2 ^ 32 + arg.toNat := by
  have := arg.isLt
  show (op ++ arg : BitVec (8 + 32)).toNat = _
  rw [BitVec.toNat_append, ← Nat.shiftLeft_add_eq_or_of_lt (by omega), Nat.shiftLeft_eq]

theorem opField_toNat (w : CmdWord) : (opField w).toNat = w.toNat / 2 ^ 32 := by
  have := w.isLt
  simp [opField, BitVec.extractLsb'_toNat, Nat.shiftRight_eq_div_pow]
  omega

theorem argField_toNat (w : CmdWord) : (argField w).toNat = w.toNat % 2 ^ 32 := by
  simp [argField, BitVec.extractLsb'_toNat]

@[simp] theorem opField_cmdWord (op : Byte) (arg : Word) : opField (cmdWord op arg) = op := by
  apply BitVec.eq_of_toNat_eq
  have := arg.isLt
  rw [opField_toNat, cmdWord_toNat]
  omega

@[simp] theorem argField_cmdWord (op : Byte) (arg : Word) : argField (cmdWord op arg) = arg := by
  apply BitVec.eq_of_toNat_eq
  have := arg.isLt
  rw [argField_toNat, cmdWord_toNat]
  omega

/-- A word is its two fields (R80). -/
theorem cmdWord_fields (w : CmdWord) : cmdWord (opField w) (argField w) = w := by
  apply BitVec.eq_of_toNat_eq
  rw [cmdWord_toNat, opField_toNat, argField_toNat]
  omega

/-! ### The tables, read in both directions -/

@[simp] theorem Opcode.mem_all (o : Opcode) : o ∈ Opcode.all := by cases o <;> decide

theorem Opcode.row_mem (o : Opcode) : o.row ∈ opcodeMap := List.mem_map_of_mem o.mem_all

@[simp] theorem Opcode.ofCode_code (o : Opcode) : Opcode.ofCode o.row.code = some o := by
  cases o <;> decide

theorem Opcode.code_of_ofCode {code : Byte} {o : Opcode} (h : Opcode.ofCode code = some o) :
    o.row.code = code := by
  simpa using List.find?_some h

@[simp] theorem Reg.mem_all (r : Reg) : r ∈ Reg.all := by cases r <;> decide

@[simp] theorem Reg.ofSel_selector (r : Reg) : Reg.ofSel r.selector = some r := by
  cases r <;> decide

theorem Reg.selector_of_ofSel {sel : Byte} {r : Reg} (h : Reg.ofSel sel = some r) :
    r.selector = sel := by
  simpa using List.find?_some h

/-- A selector names a register exactly when it is listed. -/
theorem Reg.ofSel_isSome_iff (sel : Byte) : (Reg.ofSel sel).isSome = true ↔ sel ∈ listedSelectors := by
  simp [Reg.ofSel, listedSelectors]

/-! ### Operands in `arg` -/

/-- How many low bits of `arg` a shape uses. -/
def Shape.width : Shape → Nat
  | .none => 0
  | .byte => 8
  | .half => 16
  | .word => 32
  | .idxbyte => 24

theorem Shape.reserved_eq (sh : Shape) : sh.reserved = BitVec.allOnes 32 <<< sh.width := by
  cases sh <;> decide

/-- No bit of `a` at or above `n` is set exactly when `a` is below `2 ^ n`. -/
theorem and_high_eq_zero_iff (a : Word) (n : Nat) :
    a &&& (BitVec.allOnes 32 <<< n) = 0 ↔ a.toNat < 2 ^ n := by
  constructor
  · intro h
    refine Nat.lt_pow_two_of_testBit _ fun i hi => ?_
    by_cases hlt : i < 32
    · have := congrArg (fun x => x.getLsbD i) h
      simp only [BitVec.getLsbD_and, BitVec.getLsbD_shiftLeft, BitVec.getLsbD_allOnes, hlt,
        Nat.not_lt.mpr hi, show i - n < 32 by omega, decide_true, decide_false,
        Bool.not_false, Bool.and_true] at this
      exact this.trans BitVec.getLsbD_zero
    · exact BitVec.getLsbD_of_ge a i (by omega)
  · intro h
    apply BitVec.eq_of_getLsbD_eq
    intro i hi
    by_cases hn : i < n
    · simp [hn]
    · have : a.getLsbD i = false :=
        Nat.testBit_lt_two_pow (Nat.lt_of_lt_of_le h (Nat.pow_le_pow_right (by decide) (by omega)))
      simp [this]

/-- The must-be-zero bits of a shape are zero exactly when `arg` fits the bits it uses (R81). -/
theorem Shape.reserved_and_iff (sh : Shape) (a : Word) :
    a &&& sh.reserved = 0 ↔ a.toNat < 2 ^ sh.width := by
  rw [sh.reserved_eq, and_high_eq_zero_iff]

theorem idxByte_toNat (i : Half) (b : Byte) :
    (0#8 ++ i ++ b : BitVec 32).toNat = i.toNat * 256 + b.toNat := by
  have := b.isLt
  simp only [BitVec.toNat_append]
  rw [← Nat.shiftLeft_add_eq_or_of_lt (by omega)]
  simp [Nat.shiftLeft_eq]

theorem low8_setWidth (v : Byte) : (v.setWidth 32).extractLsb' 0 8 = v := by
  apply BitVec.eq_of_toNat_eq
  have := v.isLt
  simp [BitVec.extractLsb'_toNat]
  omega

theorem low16_setWidth (v : Half) : (v.setWidth 32).extractLsb' 0 16 = v := by
  apply BitVec.eq_of_toNat_eq
  have := v.isLt
  simp [BitVec.extractLsb'_toNat]
  omega

theorem idx_of_idxByte (i : Half) (b : Byte) : (0#8 ++ i ++ b : BitVec 32).extractLsb' 8 16 = i := by
  apply BitVec.eq_of_toNat_eq
  have := i.isLt
  have := b.isLt
  rw [BitVec.extractLsb'_toNat, idxByte_toNat, Nat.shiftRight_eq_div_pow]
  omega

theorem byte_of_idxByte (i : Half) (b : Byte) : (0#8 ++ i ++ b : BitVec 32).extractLsb' 0 8 = b := by
  apply BitVec.eq_of_toNat_eq
  have := b.isLt
  rw [BitVec.extractLsb'_toNat, idxByte_toNat]
  simp; omega

/-- The operands of an operation fit the bits its shape uses. -/
theorem Instr.arg_reserved (i : Instr) : i.arg &&& i.opcode.row.shape.reserved = 0 := by
  rw [Shape.reserved_and_iff]
  cases i with
  | txpay idx b =>
    have := idx.isLt
    have := b.isLt
    show (0#8 ++ idx ++ b : BitVec 32).toNat < 2 ^ 24
    rw [idxByte_toNat]
    omega
  | txflags v => exact v.isLt
  | generate n => have := n.isLt; simp [Instr.arg, Instr.opcode, Opcode.row, Shape.width]; omega
  | txlen n => have := n.isLt; simp [Instr.arg, Instr.opcode, Opcode.row, Shape.width]; omega
  | rxrd n => have := n.isLt; simp [Instr.arg, Instr.opcode, Opcode.row, Shape.width]; omega
  | txrd n => have := n.isLt; simp [Instr.arg, Instr.opcode, Opcode.row, Shape.width]; omega
  | rxbyte b => have := b.isLt; simp [Instr.arg, Instr.opcode, Opcode.row, Shape.width]; omega
  | txmod b => have := b.isLt; simp [Instr.arg, Instr.opcode, Opcode.row, Shape.width]; omega
  | txcmd b => have := b.isLt; simp [Instr.arg, Instr.opcode, Opcode.row, Shape.width]; omega
  | rdreg b => have := b.isLt; simp [Instr.arg, Instr.opcode, Opcode.row, Shape.width]; omega
  | ckadd b => have := b.isLt; simp [Instr.arg, Instr.opcode, Opcode.row, Shape.width]; omega
  | _ => decide

/-- The operands read back from `arg` are the operation's. -/
@[simp] theorem Instr.instr_arg (i : Instr) : i.opcode.instr i.arg = i := by
  cases i <;>
    simp [Instr.opcode, Instr.arg, Opcode.instr, low8_setWidth, low16_setWidth, idx_of_idxByte,
      byte_of_idxByte]

@[simp] theorem Opcode.opcode_instr (o : Opcode) (a : Word) : (o.instr a).opcode = o := by
  cases o <;> rfl

theorem low8_of_lt {a : Word} (h : a.toNat < 2 ^ 8) : (a.extractLsb' 0 8).setWidth 32 = a := by
  apply BitVec.eq_of_toNat_eq
  simp [BitVec.extractLsb'_toNat]
  omega

theorem low16_of_lt {a : Word} (h : a.toNat < 2 ^ 16) : (a.extractLsb' 0 16).setWidth 32 = a := by
  apply BitVec.eq_of_toNat_eq
  simp [BitVec.extractLsb'_toNat]
  omega

theorem idxByte_of_lt {a : Word} (h : a.toNat < 2 ^ 24) :
    (0#8 ++ a.extractLsb' 8 16 ++ a.extractLsb' 0 8 : BitVec 32) = a := by
  apply BitVec.eq_of_toNat_eq
  rw [idxByte_toNat, BitVec.extractLsb'_toNat, BitVec.extractLsb'_toNat, Nat.shiftRight_eq_div_pow]
  simp; omega

/-- An `arg` whose must-be-zero bits are zero is the `arg` of the operation read from it. -/
theorem Opcode.arg_instr {o : Opcode} {a : Word} (h : a &&& o.row.shape.reserved = 0) :
    (o.instr a).arg = a := by
  rw [Shape.reserved_and_iff] at h
  cases o with
  | generate => exact low16_of_lt h
  | txlen => exact low16_of_lt h
  | rxrd => exact low16_of_lt h
  | txrd => exact low16_of_lt h
  | rxbyte => exact low8_of_lt h
  | txmod => exact low8_of_lt h
  | txcmd => exact low8_of_lt h
  | rdreg => exact low8_of_lt h
  | ckadd => exact low8_of_lt h
  | txpay => exact idxByte_of_lt h
  | txflags => rfl
  | _ =>
    have h : a.toNat < 1 := h
    exact (BitVec.eq_of_toNat_eq (by simp [Opcode.instr, Instr.arg]; omega))

/-! ### Rows and words -/

theorem Instr.selectorListed_of_wellFormed {i : Instr} (h : i.wellFormed = true) :
    selectorListed i = .ok i := by
  cases i with
  | rdreg sel =>
    have : (Reg.ofSel sel).isSome = true := by
      rw [Reg.ofSel_isSome_iff]; simpa [Instr.wellFormed] using h
    simp [selectorListed, this]
  | _ => rfl

theorem selectorListed_ok {i j : Instr} (h : selectorListed i = .ok j) : j = i ∧ i.wellFormed = true := by
  cases i with
  | rdreg sel =>
    simp only [selectorListed] at h
    split at h
    · rename_i hs
      exact ⟨(Except.ok.inj h).symm, by simpa [Instr.wellFormed] using (Reg.ofSel_isSome_iff sel).mp hs⟩
    · simp at h
  | _ => exact ⟨(Except.ok.inj h).symm, rfl⟩

/-- What a word that decodes is: its opcode is assigned, its must-be-zero bits are zero, its operands are
read from `arg`, and the operation is well formed. -/
theorem decode_ok {w : CmdWord} {i : Instr} (h : decode w = .ok i) :
    ∃ o, Opcode.ofCode (opField w) = some o ∧ argField w &&& o.row.shape.reserved = 0 ∧
      i = o.instr (argField w) ∧ i.wellFormed = true := by
  unfold decode at h
  split at h
  · simp at h
  · rename_i o ho
    split at h
    · rename_i hr
      obtain ⟨rfl, hw⟩ := selectorListed_ok h
      exact ⟨o, ho, hr, rfl, hw⟩
    · simp at h

/-- A row selects a word exactly when the word's opcode is the row's and its must-be-zero bits are zero. -/
theorem OpRow.selects_iff (r : OpRow) (w : CmdWord) :
    r.selects w = true ↔ opField w = r.code ∧ argField w &&& r.shape.reserved = 0 := by
  have hw : w &&& r.mask = opField w ++ (argField w &&& r.shape.reserved) := by
    conv_lhs => rw [← cmdWord_fields w]
    show (opField w ++ argField w : BitVec (8 + 32)) &&& (0xFF#8 ++ r.shape.reserved) = _
    rw [BitVec.and_append, show (0xFF#8 : Byte) = BitVec.allOnes 8 by decide, BitVec.and_allOnes]
  have h1 (a : Byte) (b : Word) : opField (a ++ b) = a := opField_cmdWord a b
  have h2 (a : Byte) (b : Word) : argField (a ++ b) = b := argField_cmdWord a b
  rw [OpRow.selects, beq_iff_eq, hw, OpRow.pattern]
  constructor
  · intro h
    have ho := congrArg opField h
    have ha := congrArg argField h
    simp only [h1, h2] at ho ha
    exact ⟨ho, ha⟩
  · rintro ⟨ho, h⟩
    rw [ho, h]; rfl

/-- The word of an operation is selected by its opcode's row. -/
theorem Instr.row_selects (i : Instr) : i.opcode.row.selects (encode i) = true := by
  simp [OpRow.selects_iff, encode, i.arg_reserved]

end Sys2Proof
end

