-- ==== Sys2Proof/Laws/Driver.lean ====
section
/-! SUPPORT. The driver layer: one lemma per field per update, what issuing an operation can do, and what
one test of SERVICE's loop can do. -/

namespace Sys2Proof.Machine

/-! ### Time and the transport -/

@[simp] theorem appendBytes_input (bytes : List Byte) (d : Driver) :
    (d.appendBytes bytes).input = d.input ++ bytes := rfl
@[simp] theorem pass_block (env : Environment) (d : Driver) : (d.pass env).block = d.block := rfl
@[simp] theorem pass_input (env : Environment) (d : Driver) :
    (d.pass env).input = d.input ++ env.arrive d.moment := rfl
@[simp] theorem pass_consumed (env : Environment) (d : Driver) :
    (d.pass env).consumed = d.consumed := rfl
@[simp] theorem pass_output (env : Environment) (d : Driver) : (d.pass env).output = d.output := rfl
@[simp] theorem pass_reports (env : Environment) (d : Driver) : (d.pass env).reports = d.reports := rfl
@[simp] theorem pass_calls (env : Environment) (d : Driver) : (d.pass env).calls = d.calls := rfl
@[simp] theorem pass_moment (env : Environment) (d : Driver) :
    (d.pass env).moment = d.moment + 1 := rfl

@[simp] theorem arrivals_zero (env : Environment) (m : Nat) : env.arrivals m 0 = [] := rfl

/-- What arrives during `a + b` moments is what arrives during the first `a` and then during the rest. -/
theorem arrivals_add (env : Environment) (m a b : Nat) :
    env.arrivals m (a + b) = env.arrivals m a ++ env.arrivals (m + a) b := by
  simp [Environment.arrivals, List.range_add, List.flatMap_append, List.flatMap_map, Nat.add_assoc]

@[simp] theorem arrivals_one (env : Environment) (m : Nat) : env.arrivals m 1 = env.arrive m := by
  simp [Environment.arrivals]

/-- `readByte` fails exactly when no byte is available. -/
theorem readByte_eq_none_iff (d : Driver) : d.readByte = none ↔ d.bytesAvailable = 0 := by
  unfold Driver.readByte Driver.bytesAvailable
  cases d.input <;> simp

theorem readByte_some {d d' : Driver} {b : Byte} (h : d.readByte = some (b, d')) :
    ∃ rest, d.input = b :: rest ∧ d' = { d with input := rest, consumed := d.consumed ++ [b] } := by
  unfold Driver.readByte at h
  split at h
  · simp at h
  · rename_i c rest hi
    obtain ⟨rfl, rfl⟩ := Prod.mk.inj (Option.some.inj h)
    exact ⟨rest, hi, rfl⟩

/-! ### Issuing -/

/-- An operation that ends with a response: the sequence goes on with it, one moment later. -/
theorem issue_of_response {env : Environment} {i : Instr} {d : Driver} {t : State} {r : Response}
    (ht : exec i d.block = .next t) (hr : t.result = some (.response r))
    (k : Response → Driver → DriverOutcome) :
    issue env i d k = k r ({ d with block := t }.pass env) := by
  simp only [issue, ht, hr]

/-- What issuing an operation can do when the sequence goes on. -/
theorem issue_next {env : Environment} {i : Instr} {d d' : Driver}
    {k : Response → Driver → DriverOutcome} (h : issue env i d k = .next d') :
    ∃ t, exec i d.block = .next t ∧
      ((∃ r, t.result = some (.response r) ∧ k r ({ d with block := t }.pass env) = .next d') ∨
        ((∀ r, t.result ≠ some (.response r)) ∧ d' = { d with block := t }.pass env)) := by
  unfold issue at h
  split at h
  · rename_i t ht
    refine ⟨t, ht, ?_⟩
    split at h
    · exact .inl ⟨_, ‹_›, h⟩
    · rename_i hr
      exact .inr ⟨hr, (Host.Outcome.next.inj h).symm⟩
  · simp at h
  · simp at h

/-! ### SERVICE -/

/-- What one test of SERVICE's loop can do, when `n` more follow. -/
theorem serviceFor_succ_next {env : Environment} {n : Nat} {d : Driver} {p : Progress}
    (h : serviceFor env (n + 1) d = .next p) :
    ((d.pass env).input = [] ∧ p = .returned (d.pass env)) ∨
    (∃ b rest d2, (d.pass env).input = b :: rest ∧
      serviceByte env b { d.pass env with input := rest, consumed := d.consumed ++ [b] } = .next d2 ∧
      serviceFor env n d2 = .next p) := by
  unfold serviceFor at h
  split at h
  · rename_i hr
    exact .inl ⟨List.length_eq_zero_iff.mp ((readByte_eq_none_iff _).mp hr),
      (Host.Outcome.next.inj h).symm⟩
  · rename_i b d1 hr
    obtain ⟨rest, hi, rfl⟩ := readByte_some hr
    split at h
    · rename_i d2 h2
      exact .inr ⟨b, rest, d2, hi, h2, h⟩
    · simp at h
    · simp at h

end Sys2Proof.Machine
end

