-- ==== Sys2Proof/Laws/Frame.lean ====
section
/-! SUPPORT. Small lemmas of the byte-order helpers (00_scope.md R11), the byte sum and the encoder. -/

namespace Sys2Proof.Machine

theorem be16_toNat (b0 b1 : Byte) : (be16 b0 b1).toNat = b0.toNat * 256 + b1.toNat := by
  have h1 := b1.isLt
  simp only [be16, BitVec.toNat_append, Nat.shiftLeft_eq]
  rw [← Nat.shiftLeft_eq, Nat.shiftLeft_add_eq_or_of_lt (by omega), Nat.shiftLeft_eq]

theorem hi8_toNat (v : Half) : (hi8 v).toNat = v.toNat / 256 := by
  have := v.isLt
  simp [hi8, BitVec.extractLsb'_toNat, Nat.shiftRight_eq_div_pow]
  omega

theorem lo8_toNat (v : Half) : (lo8 v).toNat = v.toNat % 256 := by
  simp [lo8, BitVec.extractLsb'_toNat]

@[simp] theorem be16_hi8_lo8 (v : Half) : be16 (hi8 v) (lo8 v) = v := by
  apply BitVec.eq_of_toNat_eq
  rw [be16_toNat, hi8_toNat, lo8_toNat]
  omega

theorem be32_toNat (b0 b1 b2 b3 : Byte) :
    (be32 b0 b1 b2 b3).toNat =
      b0.toNat * 2 ^ 24 + b1.toNat * 2 ^ 16 + b2.toNat * 2 ^ 8 + b3.toNat := by
  have h0 := b0.isLt
  have h1 := b1.isLt
  have h2 := b2.isLt
  have h3 := b3.isLt
  simp only [be32, BitVec.toNat_append]
  rw [← Nat.shiftLeft_add_eq_or_of_lt (by omega), ← Nat.shiftLeft_add_eq_or_of_lt (by omega),
    ← Nat.shiftLeft_add_eq_or_of_lt (by omega)]
  simp only [Nat.shiftLeft_eq]
  omega

theorem byte3_toNat (v : Word) : (byte3 v).toNat = v.toNat / 2 ^ 24 := by
  have := v.isLt
  simp [byte3, BitVec.extractLsb'_toNat, Nat.shiftRight_eq_div_pow]
  omega

theorem byte2_toNat (v : Word) : (byte2 v).toNat = v.toNat / 2 ^ 16 % 256 := by
  simp [byte2, BitVec.extractLsb'_toNat, Nat.shiftRight_eq_div_pow]

theorem byte1_toNat (v : Word) : (byte1 v).toNat = v.toNat / 2 ^ 8 % 256 := by
  simp [byte1, BitVec.extractLsb'_toNat, Nat.shiftRight_eq_div_pow]

theorem byte0_toNat (v : Word) : (byte0 v).toNat = v.toNat % 256 := by
  simp [byte0, BitVec.extractLsb'_toNat]

@[simp] theorem be32_bytes (v : Word) : be32 (byte3 v) (byte2 v) (byte1 v) (byte0 v) = v := by
  apply BitVec.eq_of_toNat_eq
  rw [be32_toNat, byte3_toNat, byte2_toNat, byte1_toNat, byte0_toNat]
  omega

@[simp] theorem byteSum_nil : byteSum [] = 0 := rfl

theorem foldl_byteSum (acc : Half) (x : List Byte) :
    x.foldl (fun a b => a + b.setWidth 16) acc = acc + byteSum x := by
  induction x generalizing acc with
  | nil => exact (BitVec.add_zero acc).symm
  | cons b x ih =>
    have h : byteSum (b :: x) = b.setWidth 16 + byteSum x := by
      show x.foldl _ (0#16 + b.setWidth 16) = _
      rw [ih, BitVec.zero_add]
    rw [List.foldl_cons, ih, h, BitVec.add_assoc]

theorem byteSum_cons (b : Byte) (x : List Byte) : byteSum (b :: x) = b.setWidth 16 + byteSum x := by
  show x.foldl _ (0#16 + b.setWidth 16) = _
  rw [foldl_byteSum, BitVec.zero_add]

theorem byteSum_append (x y : List Byte) : byteSum (x ++ y) = byteSum x + byteSum y := by
  rw [byteSum, List.foldl_append, foldl_byteSum, ← byteSum]

@[simp] theorem frameBody_length (m c : Byte) (p : List Byte) (f : Word) :
    (frameBody m c p f).length = 8 + p.length := by
  simp [frameBody]; omega

@[simp] theorem frameEncode_length (m c : Byte) (p : List Byte) (f : Word) :
    (frameEncode m c p f).length = 12 + p.length := by
  simp [frameEncode]; omega

end Sys2Proof.Machine
end

