-- ==== Sys2Proof/Laws/Memory.lean ====
section
/-! SUPPORT. The laws of one byte array: a read after a write, every other index unchanged, the
canonical form kept by every write, and equal contents are equal lists. -/

namespace Sys2Proof.Machine

@[simp] theorem Memory.lookup_nil (i : Nat) : Memory.lookup [] i = none := rfl

theorem Memory.lookup_cons (c : Host.Cell) (m : Memory) (i : Nat) :
    Memory.lookup (c :: m) i = if c.1 = i then some c.2 else Memory.lookup m i := rfl

/-- A read after a write to the same index gives the byte written. -/
@[simp] theorem Memory.lookup_write_self (m : Memory) (i : Nat) (b : Byte) :
    Memory.lookup (Memory.write m i b) i = some b := by
  induction m with
  | nil => simp [Memory.write, Memory.lookup]
  | cons c m ih =>
    unfold Memory.write
    split
    · simp [Memory.lookup]
    · split
      · simp [Memory.lookup]
      · rename_i h
        simp [Memory.lookup, ih, Ne.symm h]

/-- A write leaves every other index alone. -/
theorem Memory.lookup_write_ne (m : Memory) {i j : Nat} (b : Byte) (h : j ≠ i) :
    Memory.lookup (Memory.write m i b) j = Memory.lookup m j := by
  induction m with
  | nil => simp [Memory.write, Memory.lookup, Ne.symm h]
  | cons c m ih =>
    unfold Memory.write
    split
    · simp [Memory.lookup, Ne.symm h]
    · split
      · rename_i h'
        subst h'
        simp [Memory.lookup, Ne.symm h]
      · simp [Memory.lookup, ih]

theorem Memory.lookup_write (m : Memory) (i j : Nat) (b : Byte) :
    Memory.lookup (Memory.write m i b) j = if j = i then some b else Memory.lookup m j := by
  split
  · subst_vars; simp
  · rename_i h; exact Memory.lookup_write_ne m b h

/-- Every entry after a write is the written one or an old one. -/
theorem Memory.mem_write {m : Memory} {i : Nat} {b : Byte} {c : Host.Cell}
    (h : c ∈ Memory.write m i b) : c = (i, b) ∨ c ∈ m := by
  induction m with
  | nil => simpa [Memory.write] using h
  | cons d m ih =>
    unfold Memory.write at h
    split at h
    · simpa using h
    · split at h
      · rcases List.mem_cons.mp h with h | h
        · exact .inl h
        · exact .inr (List.mem_cons_of_mem _ h)
      · rcases List.mem_cons.mp h with h | h
        · exact .inr (by simp [h])
        · exact (ih h).imp id (List.mem_cons_of_mem _)

/-- A write keeps the canonical form. -/
theorem Memory.wf_write {m : Memory} (hm : Memory.wf m) (i : Nat) (b : Byte) :
    Memory.wf (Memory.write m i b) := by
  induction m with
  | nil => simp [Memory.wf, Memory.write]
  | cons d m ih =>
    obtain ⟨hd, hm'⟩ := List.pairwise_cons.mp hm
    unfold Memory.write
    split
    · rename_i h
      refine List.pairwise_cons.mpr ⟨fun c hc => ?_, hm⟩
      rcases List.mem_cons.mp hc with rfl | hc
      · exact h
      · exact Nat.lt_trans h (hd c hc)
    · split
      · rename_i h
        exact List.pairwise_cons.mpr ⟨fun c hc => h ▸ hd c hc, hm'⟩
      · rename_i h1 h2
        refine List.pairwise_cons.mpr ⟨fun c hc => ?_, ih hm'⟩
        rcases Memory.mem_write hc with rfl | hc
        · simp only; omega
        · exact hd c hc

theorem Memory.wf_nil : Memory.wf [] := List.Pairwise.nil

/-- Below the first entry of a canonical list nothing is listed. -/
theorem Memory.lookup_none_of_lt {m : Memory} {i : Nat} (h : ∀ c ∈ m, i < c.1) :
    Memory.lookup m i = none := by
  induction m with
  | nil => rfl
  | cons d m ih =>
    have hd := h d (by simp)
    rw [Memory.lookup_cons, if_neg (by omega)]
    exact ih fun c hc => h c (List.mem_cons_of_mem _ hc)

/-- Equal contents are equal data: two canonical lists that read alike everywhere are the same list. -/
theorem Memory.eq_of_lookup_eq {m n : Memory} (hm : Memory.wf m) (hn : Memory.wf n)
    (h : ∀ i, Memory.lookup m i = Memory.lookup n i) : m = n := by
  induction m generalizing n with
  | nil =>
    cases n with
    | nil => rfl
    | cons d n => simpa [Memory.lookup] using h d.1
  | cons c m ih =>
    obtain ⟨hc, hm'⟩ := List.pairwise_cons.mp hm
    cases n with
    | nil => simpa [Memory.lookup] using h c.1
    | cons d n =>
      obtain ⟨hd, hn'⟩ := List.pairwise_cons.mp hn
      have key : c.1 = d.1 := by
        rcases Nat.lt_trichotomy c.1 d.1 with hlt | heq | hgt
        · have := h c.1
          rw [Memory.lookup_cons, if_pos rfl, Memory.lookup_none_of_lt] at this
          · simp at this
          · intro e he
            rcases List.mem_cons.mp he with rfl | he
            · exact hlt
            · exact Nat.lt_trans hlt (hd e he)
        · exact heq
        · have := (h d.1).symm
          rw [Memory.lookup_cons, if_pos rfl, Memory.lookup_none_of_lt] at this
          · simp at this
          · intro e he
            rcases List.mem_cons.mp he with rfl | he
            · exact hgt
            · exact Nat.lt_trans hgt (hc e he)
      have hval : c = d := by
        have := h c.1
        rw [Memory.lookup_cons, Memory.lookup_cons, if_pos rfl, if_pos key.symm] at this
        exact Prod.ext key (Option.some.inj this)
      subst hval
      congr 1
      refine ih hm' hn' fun i => ?_
      by_cases hi : c.1 = i
      · subst hi
        rw [Memory.lookup_none_of_lt hc, Memory.lookup_none_of_lt hd]
      · have := h i
        rwa [Memory.lookup_cons, Memory.lookup_cons, if_neg hi, if_neg hi] at this

/-- Writing what is already there changes nothing. -/
theorem Memory.write_same {m : Memory} (hm : Memory.wf m) {i : Nat} {b : Byte}
    (h : Memory.lookup m i = some b) : Memory.write m i b = m := by
  refine Memory.eq_of_lookup_eq (Memory.wf_write hm i b) hm fun j => ?_
  rw [Memory.lookup_write]
  split
  · subst_vars; exact h.symm
  · rfl

end Sys2Proof.Machine
end

