-- ==== Sys2Proof/Laws/State.lean ====
section
/-! SUPPORT. One lemma per field per update of State, true by rfl, so that no later proof unfolds a
record update. Every `return` of the spec's pseudocode is first brought to `respond`. -/

namespace Sys2Proof.Machine

@[simp] theorem succeed_eq (s : State) : succeed s = respond errSuccess false 0 s := rfl
@[simp] theorem succeedWith_eq (v : Word) (s : State) : succeedWith v s = respond errSuccess false v s := rfl
@[simp] theorem failMask_eq (e : Word) (s : State) : failMask e s = respond e false 0 s := rfl
@[simp] theorem fail_eq (k : ErrKind) (s : State) : fail k s = respond k.mask false 0 s := rfl
@[simp] theorem buffer_tx (s : State) : s.buffer .tx = s.tx := rfl
@[simp] theorem buffer_rx (s : State) : s.buffer .rx = s.rx := rfl

@[simp] theorem respond_gen (e : Word) (c : Bool) (v : Word) (s : State) : (respond e c v s).gen = s.gen := rfl
@[simp] theorem respond_tx (e : Word) (c : Bool) (v : Word) (s : State) : (respond e c v s).tx = s.tx := rfl
@[simp] theorem respond_rx (e : Word) (c : Bool) (v : Word) (s : State) : (respond e c v s).rx = s.rx := rfl
@[simp] theorem respond_asm (e : Word) (c : Bool) (v : Word) (s : State) : (respond e c v s).asm = s.asm := rfl
@[simp] theorem respond_txp (e : Word) (c : Bool) (v : Word) (s : State) : (respond e c v s).txp = s.txp := rfl
@[simp] theorem respond_rxp (e : Word) (c : Bool) (v : Word) (s : State) : (respond e c v s).rxp = s.rxp := rfl
@[simp] theorem respond_ck (e : Word) (c : Bool) (v : Word) (s : State) : (respond e c v s).ck = s.ck := rfl
@[simp] theorem respond_cfg (e : Word) (c : Bool) (v : Word) (s : State) : (respond e c v s).cfg = s.cfg := rfl
@[simp] theorem respond_epoch (e : Word) (c : Bool) (v : Word) (s : State) : (respond e c v s).epoch = s.epoch := rfl
@[simp] theorem respond_pending (e : Word) (c : Bool) (v : Word) (s : State) : (respond e c v s).pending = s.pending := rfl
@[simp] theorem respond_result (e : Word) (c : Bool) (v : Word) (s : State) : (respond e c v s).result = some (.response ⟨e, c, v⟩) := rfl

@[simp] theorem raiseIllegal_gen (w : CmdWord) (s : State) : (raiseIllegal w s).gen = s.gen := rfl
@[simp] theorem raiseIllegal_tx (w : CmdWord) (s : State) : (raiseIllegal w s).tx = s.tx := rfl
@[simp] theorem raiseIllegal_rx (w : CmdWord) (s : State) : (raiseIllegal w s).rx = s.rx := rfl
@[simp] theorem raiseIllegal_asm (w : CmdWord) (s : State) : (raiseIllegal w s).asm = s.asm := rfl
@[simp] theorem raiseIllegal_txp (w : CmdWord) (s : State) : (raiseIllegal w s).txp = s.txp := rfl
@[simp] theorem raiseIllegal_rxp (w : CmdWord) (s : State) : (raiseIllegal w s).rxp = s.rxp := rfl
@[simp] theorem raiseIllegal_ck (w : CmdWord) (s : State) : (raiseIllegal w s).ck = s.ck := rfl
@[simp] theorem raiseIllegal_cfg (w : CmdWord) (s : State) : (raiseIllegal w s).cfg = s.cfg := rfl
@[simp] theorem raiseIllegal_epoch (w : CmdWord) (s : State) : (raiseIllegal w s).epoch = s.epoch := rfl
@[simp] theorem raiseIllegal_pending (w : CmdWord) (s : State) : (raiseIllegal w s).pending = s.pending := rfl
@[simp] theorem raiseIllegal_result (w : CmdWord) (s : State) : (raiseIllegal w s).result = some (.illegalCommand w) := rfl

@[simp] theorem allocate_gen (n : Half) (s : State) : (allocate n s).gen = true := rfl
@[simp] theorem allocate_tx (n : Half) (s : State) : (allocate n s).tx = ⟨n, 0, []⟩ := rfl
@[simp] theorem allocate_rx (n : Half) (s : State) : (allocate n s).rx = ⟨n, 0, []⟩ := rfl
@[simp] theorem allocate_asm (n : Half) (s : State) : (allocate n s).asm = .awaitStart := rfl
@[simp] theorem allocate_txp (n : Half) (s : State) : (allocate n s).txp = s.txp := rfl
@[simp] theorem allocate_rxp (n : Half) (s : State) : (allocate n s).rxp = s.rxp := rfl
@[simp] theorem allocate_ck (n : Half) (s : State) : (allocate n s).ck = s.ck := rfl
@[simp] theorem allocate_cfg (n : Half) (s : State) : (allocate n s).cfg = s.cfg := rfl
@[simp] theorem allocate_epoch (n : Half) (s : State) : (allocate n s).epoch = s.epoch + 1 := rfl
@[simp] theorem allocate_pending (n : Half) (s : State) : (allocate n s).pending = s.pending := rfl
@[simp] theorem allocate_result (n : Half) (s : State) : (allocate n s).result = s.result := rfl

@[simp] theorem release_gen (s : State) : (release s).gen = false := rfl
@[simp] theorem release_tx (s : State) : (release s).tx = .empty := rfl
@[simp] theorem release_rx (s : State) : (release s).rx = .empty := rfl
@[simp] theorem release_asm (s : State) : (release s).asm = .awaitStart := rfl
@[simp] theorem release_txp (s : State) : (release s).txp = .zero := rfl
@[simp] theorem release_rxp (s : State) : (release s).rxp = .zero := rfl
@[simp] theorem release_ck (s : State) : (release s).ck = s.ck := rfl
@[simp] theorem release_cfg (s : State) : (release s).cfg = s.cfg := rfl
@[simp] theorem release_epoch (s : State) : (release s).epoch = s.epoch := rfl
@[simp] theorem release_pending (s : State) : (release s).pending = s.pending := rfl
@[simp] theorem release_result (s : State) : (release s).result = s.result := rfl

@[simp] theorem rewindTx_gen (s : State) : (rewindTx s).gen = s.gen := rfl
@[simp] theorem rewindTx_tx (s : State) : (rewindTx s).tx = ⟨s.tx.len, 0, s.tx.mem⟩ := rfl
@[simp] theorem rewindTx_rx (s : State) : (rewindTx s).rx = s.rx := rfl
@[simp] theorem rewindTx_asm (s : State) : (rewindTx s).asm = s.asm := rfl
@[simp] theorem rewindTx_txp (s : State) : (rewindTx s).txp = s.txp := rfl
@[simp] theorem rewindTx_rxp (s : State) : (rewindTx s).rxp = s.rxp := rfl
@[simp] theorem rewindTx_ck (s : State) : (rewindTx s).ck = s.ck := rfl
@[simp] theorem rewindTx_cfg (s : State) : (rewindTx s).cfg = s.cfg := rfl
@[simp] theorem rewindTx_epoch (s : State) : (rewindTx s).epoch = s.epoch := rfl
@[simp] theorem rewindTx_pending (s : State) : (rewindTx s).pending = s.pending := rfl
@[simp] theorem rewindTx_result (s : State) : (rewindTx s).result = s.result := rfl

@[simp] theorem rewindRx_gen (s : State) : (rewindRx s).gen = s.gen := rfl
@[simp] theorem rewindRx_tx (s : State) : (rewindRx s).tx = s.tx := rfl
@[simp] theorem rewindRx_rx (s : State) : (rewindRx s).rx = ⟨s.rx.len, 0, s.rx.mem⟩ := rfl
@[simp] theorem rewindRx_asm (s : State) : (rewindRx s).asm = .awaitStart := rfl
@[simp] theorem rewindRx_txp (s : State) : (rewindRx s).txp = s.txp := rfl
@[simp] theorem rewindRx_rxp (s : State) : (rewindRx s).rxp = s.rxp := rfl
@[simp] theorem rewindRx_ck (s : State) : (rewindRx s).ck = s.ck := rfl
@[simp] theorem rewindRx_cfg (s : State) : (rewindRx s).cfg = s.cfg := rfl
@[simp] theorem rewindRx_epoch (s : State) : (rewindRx s).epoch = s.epoch := rfl
@[simp] theorem rewindRx_pending (s : State) : (rewindRx s).pending = s.pending := rfl
@[simp] theorem rewindRx_result (s : State) : (rewindRx s).result = s.result := rfl

@[simp] theorem resetEvent_gen (s : State) : (resetEvent s).gen = false := rfl
@[simp] theorem resetEvent_tx (s : State) : (resetEvent s).tx = .empty := rfl
@[simp] theorem resetEvent_rx (s : State) : (resetEvent s).rx = .empty := rfl
@[simp] theorem resetEvent_asm (s : State) : (resetEvent s).asm = .awaitStart := rfl
@[simp] theorem resetEvent_txp (s : State) : (resetEvent s).txp = .zero := rfl
@[simp] theorem resetEvent_rxp (s : State) : (resetEvent s).rxp = .zero := rfl
@[simp] theorem resetEvent_ck (s : State) : (resetEvent s).ck = 0 := rfl
@[simp] theorem resetEvent_cfg (s : State) : (resetEvent s).cfg = s.cfg := rfl
@[simp] theorem resetEvent_epoch (s : State) : (resetEvent s).epoch = s.epoch := rfl
@[simp] theorem resetEvent_pending (s : State) : (resetEvent s).pending = s.pending := rfl
@[simp] theorem resetEvent_result (s : State) : (resetEvent s).result = none := rfl

@[simp] theorem dropInput_gen (s : State) : (dropInput s).gen = s.gen := rfl
@[simp] theorem dropInput_tx (s : State) : (dropInput s).tx = s.tx := rfl
@[simp] theorem dropInput_rx (s : State) : (dropInput s).rx = s.rx := rfl
@[simp] theorem dropInput_asm (s : State) : (dropInput s).asm = s.asm := rfl
@[simp] theorem dropInput_txp (s : State) : (dropInput s).txp = s.txp := rfl
@[simp] theorem dropInput_rxp (s : State) : (dropInput s).rxp = s.rxp := rfl
@[simp] theorem dropInput_ck (s : State) : (dropInput s).ck = s.ck := rfl
@[simp] theorem dropInput_cfg (s : State) : (dropInput s).cfg = s.cfg := rfl
@[simp] theorem dropInput_epoch (s : State) : (dropInput s).epoch = s.epoch := rfl
@[simp] theorem dropInput_pending (s : State) : (dropInput s).pending = s.pending.tail := rfl
@[simp] theorem dropInput_result (s : State) : (dropInput s).result = s.result := rfl

@[simp] theorem presentFirst_gen (w : CmdWord) (s : State) : (presentFirst w s).gen = s.gen := rfl
@[simp] theorem presentFirst_tx (w : CmdWord) (s : State) : (presentFirst w s).tx = s.tx := rfl
@[simp] theorem presentFirst_rx (w : CmdWord) (s : State) : (presentFirst w s).rx = s.rx := rfl
@[simp] theorem presentFirst_asm (w : CmdWord) (s : State) : (presentFirst w s).asm = s.asm := rfl
@[simp] theorem presentFirst_txp (w : CmdWord) (s : State) : (presentFirst w s).txp = s.txp := rfl
@[simp] theorem presentFirst_rxp (w : CmdWord) (s : State) : (presentFirst w s).rxp = s.rxp := rfl
@[simp] theorem presentFirst_ck (w : CmdWord) (s : State) : (presentFirst w s).ck = s.ck := rfl
@[simp] theorem presentFirst_cfg (w : CmdWord) (s : State) : (presentFirst w s).cfg = s.cfg := rfl
@[simp] theorem presentFirst_epoch (w : CmdWord) (s : State) : (presentFirst w s).epoch = s.epoch := rfl
@[simp] theorem presentFirst_pending (w : CmdWord) (s : State) : (presentFirst w s).pending = .command w :: s.pending := rfl
@[simp] theorem presentFirst_result (w : CmdWord) (s : State) : (presentFirst w s).result = s.result := rfl

@[simp] theorem setBuffer_tx_gen (s : State) (b : Buffer) : (s.setBuffer .tx b).gen = s.gen := rfl
@[simp] theorem setBuffer_tx_tx (s : State) (b : Buffer) : (s.setBuffer .tx b).tx = b := rfl
@[simp] theorem setBuffer_tx_rx (s : State) (b : Buffer) : (s.setBuffer .tx b).rx = s.rx := rfl
@[simp] theorem setBuffer_tx_asm (s : State) (b : Buffer) : (s.setBuffer .tx b).asm = s.asm := rfl
@[simp] theorem setBuffer_tx_txp (s : State) (b : Buffer) : (s.setBuffer .tx b).txp = s.txp := rfl
@[simp] theorem setBuffer_tx_rxp (s : State) (b : Buffer) : (s.setBuffer .tx b).rxp = s.rxp := rfl
@[simp] theorem setBuffer_tx_ck (s : State) (b : Buffer) : (s.setBuffer .tx b).ck = s.ck := rfl
@[simp] theorem setBuffer_tx_cfg (s : State) (b : Buffer) : (s.setBuffer .tx b).cfg = s.cfg := rfl
@[simp] theorem setBuffer_tx_epoch (s : State) (b : Buffer) : (s.setBuffer .tx b).epoch = s.epoch := rfl
@[simp] theorem setBuffer_tx_pending (s : State) (b : Buffer) : (s.setBuffer .tx b).pending = s.pending := rfl
@[simp] theorem setBuffer_tx_result (s : State) (b : Buffer) : (s.setBuffer .tx b).result = s.result := rfl

@[simp] theorem setBuffer_rx_gen (s : State) (b : Buffer) : (s.setBuffer .rx b).gen = s.gen := rfl
@[simp] theorem setBuffer_rx_tx (s : State) (b : Buffer) : (s.setBuffer .rx b).tx = s.tx := rfl
@[simp] theorem setBuffer_rx_rx (s : State) (b : Buffer) : (s.setBuffer .rx b).rx = b := rfl
@[simp] theorem setBuffer_rx_asm (s : State) (b : Buffer) : (s.setBuffer .rx b).asm = s.asm := rfl
@[simp] theorem setBuffer_rx_txp (s : State) (b : Buffer) : (s.setBuffer .rx b).txp = s.txp := rfl
@[simp] theorem setBuffer_rx_rxp (s : State) (b : Buffer) : (s.setBuffer .rx b).rxp = s.rxp := rfl
@[simp] theorem setBuffer_rx_ck (s : State) (b : Buffer) : (s.setBuffer .rx b).ck = s.ck := rfl
@[simp] theorem setBuffer_rx_cfg (s : State) (b : Buffer) : (s.setBuffer .rx b).cfg = s.cfg := rfl
@[simp] theorem setBuffer_rx_epoch (s : State) (b : Buffer) : (s.setBuffer .rx b).epoch = s.epoch := rfl
@[simp] theorem setBuffer_rx_pending (s : State) (b : Buffer) : (s.setBuffer .rx b).pending = s.pending := rfl
@[simp] theorem setBuffer_rx_result (s : State) (b : Buffer) : (s.setBuffer .rx b).result = s.result := rfl

@[simp] theorem poke_tx_gen (s : State) (i : Nat) (b : Byte) : (s.poke .tx i b).gen = s.gen := rfl
@[simp] theorem poke_tx_tx (s : State) (i : Nat) (b : Byte) : (s.poke .tx i b).tx = ⟨s.tx.len, s.tx.idx, s.tx.mem.write i b⟩ := rfl
@[simp] theorem poke_tx_rx (s : State) (i : Nat) (b : Byte) : (s.poke .tx i b).rx = s.rx := rfl
@[simp] theorem poke_tx_asm (s : State) (i : Nat) (b : Byte) : (s.poke .tx i b).asm = s.asm := rfl
@[simp] theorem poke_tx_txp (s : State) (i : Nat) (b : Byte) : (s.poke .tx i b).txp = s.txp := rfl
@[simp] theorem poke_tx_rxp (s : State) (i : Nat) (b : Byte) : (s.poke .tx i b).rxp = s.rxp := rfl
@[simp] theorem poke_tx_ck (s : State) (i : Nat) (b : Byte) : (s.poke .tx i b).ck = s.ck := rfl
@[simp] theorem poke_tx_cfg (s : State) (i : Nat) (b : Byte) : (s.poke .tx i b).cfg = s.cfg := rfl
@[simp] theorem poke_tx_epoch (s : State) (i : Nat) (b : Byte) : (s.poke .tx i b).epoch = s.epoch := rfl
@[simp] theorem poke_tx_pending (s : State) (i : Nat) (b : Byte) : (s.poke .tx i b).pending = s.pending := rfl
@[simp] theorem poke_tx_result (s : State) (i : Nat) (b : Byte) : (s.poke .tx i b).result = s.result := rfl

@[simp] theorem poke_rx_gen (s : State) (i : Nat) (b : Byte) : (s.poke .rx i b).gen = s.gen := rfl
@[simp] theorem poke_rx_tx (s : State) (i : Nat) (b : Byte) : (s.poke .rx i b).tx = s.tx := rfl
@[simp] theorem poke_rx_rx (s : State) (i : Nat) (b : Byte) : (s.poke .rx i b).rx = ⟨s.rx.len, s.rx.idx, s.rx.mem.write i b⟩ := rfl
@[simp] theorem poke_rx_asm (s : State) (i : Nat) (b : Byte) : (s.poke .rx i b).asm = s.asm := rfl
@[simp] theorem poke_rx_txp (s : State) (i : Nat) (b : Byte) : (s.poke .rx i b).txp = s.txp := rfl
@[simp] theorem poke_rx_rxp (s : State) (i : Nat) (b : Byte) : (s.poke .rx i b).rxp = s.rxp := rfl
@[simp] theorem poke_rx_ck (s : State) (i : Nat) (b : Byte) : (s.poke .rx i b).ck = s.ck := rfl
@[simp] theorem poke_rx_cfg (s : State) (i : Nat) (b : Byte) : (s.poke .rx i b).cfg = s.cfg := rfl
@[simp] theorem poke_rx_epoch (s : State) (i : Nat) (b : Byte) : (s.poke .rx i b).epoch = s.epoch := rfl
@[simp] theorem poke_rx_pending (s : State) (i : Nat) (b : Byte) : (s.poke .rx i b).pending = s.pending := rfl
@[simp] theorem poke_rx_result (s : State) (i : Nat) (b : Byte) : (s.poke .rx i b).result = s.result := rfl

end Sys2Proof.Machine
end

