-- ==== Sys2Proof/Laws/Ops.lean ====
section
/-! SUPPORT. One lemma per shared operation, saying once everything it can do. -/

namespace Sys2Proof.Machine

/-! ### Cells -/

theorem cell_def (s : State) (d : Dir) (i : Nat) :
    s.cell d i = ((s.buffer d).mem.lookup i).getD (freeByte s.epoch d i) := rfl

/-- A cell depends on its own array and on the storage it was allocated in, on nothing else. -/
theorem cell_congr {s t : State} {d : Dir} (hm : (t.buffer d).mem = (s.buffer d).mem)
    (he : t.epoch = s.epoch) (i : Nat) : t.cell d i = s.cell d i := by
  rw [cell_def, cell_def, hm, he]

/-- A written cell holds what was written. -/
theorem cell_of_lookup {s : State} {d : Dir} {i : Nat} {b : Byte}
    (h : (s.buffer d).mem.lookup i = some b) : s.cell d i = b := by
  rw [cell_def, h]; rfl

@[simp] theorem poke_buffer_self (s : State) (d : Dir) (i : Nat) (b : Byte) :
    (s.poke d i b).buffer d = { s.buffer d with mem := (s.buffer d).mem.write i b } := by
  cases d <;> rfl

theorem poke_buffer_other (s : State) {d e : Dir} (h : e ≠ d) (i : Nat) (b : Byte) :
    (s.poke d i b).buffer e = s.buffer e := by
  cases d <;> cases e <;> first | rfl | exact absurd rfl h

@[simp] theorem poke_epoch (s : State) (d : Dir) (i : Nat) (b : Byte) :
    (s.poke d i b).epoch = s.epoch := by cases d <;> rfl

/-- MemWrite's effect on every cell of both arrays (R54: "changes no other cell"). -/
theorem cell_poke (s : State) (d e : Dir) (i j : Nat) (b : Byte) :
    (s.poke d i b).cell e j = if e = d ∧ j = i then b else s.cell e j := by
  by_cases he : e = d
  · subst he
    rw [cell_def, poke_buffer_self, poke_epoch]
    simp only [Memory.lookup_write]
    by_cases hj : j = i <;> simp [hj, cell_def]
  · rw [cell_def, poke_buffer_other s he, poke_epoch]
    simp [he, cell_def]

@[simp] theorem window_length (s : State) (d : Dir) (first count : Nat) :
    (s.window d first count).length = count := by simp [State.window]

theorem window_getElem (s : State) (d : Dir) (first count k : Nat) (h : k < count) :
    (s.window d first count)[k]'(by simpa using h) = s.cell d (first + k) := by
  simp [State.window]

theorem window_congr {s t : State} {d : Dir} {first count : Nat}
    (h : ∀ k, k < count → t.cell d (first + k) = s.cell d (first + k)) :
    t.window d first count = s.window d first count := by
  refine List.map_congr_left fun k hk => h k (by simpa using hk)

/-! ### MemRead and MemWrite -/

theorem memRead_of_lt {s : State} {d : Dir} {i : Nat} (h : i < (s.buffer d).len.toNat) :
    memRead s d i = .ok (s.cell d i) := if_pos h

theorem memRead_ok {s : State} {d : Dir} {i : Nat} {b : Byte} (h : memRead s d i = .ok b) :
    i < (s.buffer d).len.toNat ∧ b = s.cell d i := by
  unfold memRead at h
  split at h
  · exact ⟨‹_›, (Except.ok.inj h).symm⟩
  · simp at h

theorem memReadRange_of_le {s : State} {d : Dir} {first count : Nat}
    (h : first + count ≤ (s.buffer d).len.toNat) :
    memReadRange s d first count = .ok (s.window d first count) := if_pos h

theorem memReadRange_ok {s : State} {d : Dir} {first count : Nat} {bytes : List Byte}
    (h : memReadRange s d first count = .ok bytes) :
    first + count ≤ (s.buffer d).len.toNat ∧ bytes = s.window d first count := by
  unfold memReadRange at h
  split at h
  · exact ⟨‹_›, (Except.ok.inj h).symm⟩
  · simp at h

theorem memWrite_of_lt {s : State} {d : Dir} {i : Nat} (h : i < (s.buffer d).len.toNat) (b : Byte) :
    memWrite s d i b = .ok (s.poke d i b) := if_pos h

theorem memWrite_ok {s t : State} {d : Dir} {i : Nat} {b : Byte} (h : memWrite s d i b = .ok t) :
    i < (s.buffer d).len.toNat ∧ t = s.poke d i b := by
  unfold memWrite at h
  split at h
  · exact ⟨‹_›, (Except.ok.inj h).symm⟩
  · simp at h

/-- What a run of writes leaves: the state with one array rewritten. -/
structure Rewritten (s t : State) (d : Dir) : Prop where
  /-- Nothing but the array of that direction differs. -/
  same : t = s.setBuffer d { s.buffer d with mem := (t.buffer d).mem }
  /-- The canonical form is kept. -/
  wf : Memory.wf (s.buffer d).mem → Memory.wf (t.buffer d).mem

theorem Rewritten.refl (s : State) (d : Dir) : Rewritten s s d :=
  ⟨by cases d <;> rfl, id⟩

theorem Rewritten.poke (s : State) (d : Dir) (i : Nat) (b : Byte) : Rewritten s (s.poke d i b) d :=
  ⟨by cases d <;> rfl, fun h => by simpa using Memory.wf_write h i b⟩

theorem Rewritten.trans {s t u : State} {d : Dir} (h1 : Rewritten s t d) (h2 : Rewritten t u d) :
    Rewritten s u d :=
  ⟨by rw [h2.same, h1.same]; cases d <;> rfl, h2.wf ∘ h1.wf⟩

theorem Rewritten.len {s t : State} {d : Dir} (h : Rewritten s t d) (e : Dir) :
    (t.buffer e).len = (s.buffer e).len := by
  rw [h.same]; cases d <;> cases e <;> rfl

theorem Rewritten.epoch {s t : State} {d : Dir} (h : Rewritten s t d) : t.epoch = s.epoch := by
  rw [h.same]; cases d <;> rfl

/-- Consecutive writes that stay within the buffer succeed; they change those cells and nothing else. -/
theorem memWriteRange_of_le {s : State} {d : Dir} {first : Nat} {bytes : List Byte}
    (h : first + bytes.length ≤ (s.buffer d).len.toNat) :
    ∃ t, memWriteRange s d first bytes = .ok t ∧ Rewritten s t d ∧
      ∀ i, t.cell d i =
        if first ≤ i ∧ i < first + bytes.length then bytes.getD (i - first) 0 else s.cell d i := by
  induction bytes generalizing s first with
  | nil => exact ⟨s, rfl, .refl s d, fun i => by rw [if_neg (by simp)]⟩
  | cons b bs ih =>
    simp only [List.length_cons] at h
    obtain ⟨t, ht, hr, hc⟩ := ih (s := s.poke d first b) (first := first + 1)
      (by rw [poke_buffer_self]; simp only; omega)
    refine ⟨t, ?_, (Rewritten.poke s d first b).trans hr, fun i => ?_⟩
    · simp only [memWriteRange, memWrite_of_lt (show first < (s.buffer d).len.toNat by omega) b, ht]
    · rw [hc i, cell_poke]
      by_cases h1 : i = first
      · subst h1; simp
      · by_cases h2 : first + 1 ≤ i ∧ i < first + 1 + bs.length
        · rw [if_pos h2, if_pos (by simp only [List.length_cons]; omega),
            show i - first = (i - (first + 1)) + 1 by omega, List.getD_cons_succ]
        · rw [if_neg h2, if_neg (by simp [h1]), if_neg (by simp only [List.length_cons]; omega)]

theorem declaredLen_of_lt {s : State} (h : 4 < s.rx.len.toNat) :
    declaredLen s = .ok (be16 (s.cell .rx 3) (s.cell .rx 4)) := by
  unfold declaredLen
  rw [memRead_of_lt (d := .rx) (show 3 < _ by simp; omega), memRead_of_lt (d := .rx) (by simpa using h)]

/-! ### Outcomes -/

@[simp] theorem faultOr_ok {α : Type} (a : α) (k : α → Outcome) : faultOr (.ok a) k = k a := rfl

@[simp] theorem faultOr_error {α : Type} (f : Fault) (k : α → Outcome) :
    faultOr (.error f) k = .fault f := rfl

theorem needStorage_true {s : State} (h : s.gen = true) (k : Outcome) : needStorage s k = k := by
  simp [needStorage, h]

theorem needStorage_false {s : State} (h : s.gen = false) (k : Outcome) :
    needStorage s k = .next (fail .memory s) := by simp [needStorage, h]

/-! ### The error masks -/

theorem errWhen_eq (c : Bool) (k : ErrKind) : errWhen c k = if c then k.mask else 0 := rfl

/-- The mask CONSTRUCT computes is empty exactly when none of its checks fails. -/
theorem constructErr_eq_zero_iff (s : State) : constructErr s = 0 ↔ constructFails s = false := by
  unfold constructErr constructFails errWhen
  cases lengthExceeded s <;> cases frameExceeds s <;> cases moduleUnknown s <;> decide

/-- The mask GENERATE computes is empty exactly when the pair is not generated and the length fits. -/
theorem generateErr_eq_zero_iff (n : Half) (s : State) :
    generateErr n s = 0 ↔ s.gen = false ∧ n.toNat ≤ s.cfg.blockLenMax.toNat := by
  unfold generateErr errWhen
  by_cases h : s.cfg.blockLenMax.toNat < n.toNat
  · cases s.gen <;> simp [h, ErrKind.mask, ErrKind.bit, errSuccess]
  · cases s.gen <;> simp [h, ErrKind.mask, ErrKind.bit, errSuccess]; omega

end Sys2Proof.Machine
end

