-- ==== Sys2Proof/Laws/Exec.lean ====
section
/-! SUPPORT. What each meaning can do, said once: if it answers a next state, then one of these cases
holds. Invariants and frames are derived from these lemmas, not by unfolding `exec`. -/

namespace Sys2Proof.Machine

/-- An operation that needs storage answers ERR_MEMORY without it, and goes on with it. -/
theorem needStorage_next {s t : State} {k : Outcome} (h : needStorage s k = .next t) :
    (s.gen = false ∧ t = respond ErrKind.memory.mask false 0 s) ∨ (s.gen = true ∧ k = .next t) := by
  cases hg : s.gen with
  | false => rw [needStorage_false hg] at h; exact .inl ⟨rfl, (Host.Outcome.next.inj h).symm⟩
  | true => rw [needStorage_true hg] at h; exact .inr ⟨rfl, h⟩

theorem faultOr_next {α : Type} {r : Except Fault α} {k : α → Outcome} {t : State}
    (h : faultOr r k = .next t) : ∃ a, r = .ok a ∧ k a = .next t := by
  cases r with
  | ok a => exact ⟨a, rfl, h⟩
  | error f => cases h

theorem execGenerate_next {n : Half} {s t : State} (h : execGenerate n s = .next t) :
    (s.gen = false ∧ n.toNat ≤ s.cfg.blockLenMax.toNat ∧
      t = respond errSuccess false 0 (allocate n s)) ∨
    (generateErr n s ≠ 0 ∧ t = respond (generateErr n s) false 0 s) := by
  have h := Host.Outcome.next.inj h
  split at h
  · rename_i he
    obtain ⟨h1, h2⟩ := (generateErr_eq_zero_iff n s).mp he
    exact .inl ⟨h1, h2, h.symm⟩
  · exact .inr ⟨‹_›, h.symm⟩

theorem execDestroy_next {s t : State} (h : execDestroy s = .next t) :
    (s.gen = false ∧ t = respond ErrKind.memory.mask false 0 s) ∨
    (s.gen = true ∧ t = respond errSuccess false 0 (release s)) :=
  (needStorage_next h).imp id (And.imp id fun h => (Host.Outcome.next.inj h).symm)

theorem execFlushtx_next {s t : State} (h : execFlushtx s = .next t) :
    (s.gen = false ∧ t = respond ErrKind.memory.mask false 0 s) ∨
    (s.gen = true ∧ t = respond errSuccess false 0 (rewindTx s)) :=
  (needStorage_next h).imp id (And.imp id fun h => (Host.Outcome.next.inj h).symm)

theorem execFlushrx_next {s t : State} (h : execFlushrx s = .next t) :
    (s.gen = false ∧ t = respond ErrKind.memory.mask false 0 s) ∨
    (s.gen = true ∧ t = respond errSuccess false 0 (rewindRx s)) :=
  (needStorage_next h).imp id (And.imp id fun h => (Host.Outcome.next.inj h).symm)

theorem execFlushboth_next {s t : State} (h : execFlushboth s = .next t) :
    (s.gen = false ∧ t = respond ErrKind.memory.mask false 0 s) ∨
    (s.gen = true ∧ t = respond errSuccess false 0 (rewindRx (rewindTx s))) :=
  (needStorage_next h).imp id (And.imp id fun h => (Host.Outcome.next.inj h).symm)

/-! ### The assembler -/

/-- The state an accepted byte leaves before `asm` moves (R137). -/
def appended (b : Byte) (s : State) : State :=
  { s with rx := ⟨s.rx.len, s.rx.idx + 1, s.rx.mem.write s.rx.idx.toNat b⟩ }

theorem append_full {s : State} (h : s.rx.len.toNat ≤ s.rx.idx.toNat) (b : Byte) :
    append b s = .ok none := if_pos h

theorem append_room {s : State} (h : s.rx.idx.toNat < s.rx.len.toNat) (b : Byte) :
    append b s = .ok (some (appended b s)) := by
  rw [append, if_neg (by omega), memWrite_of_lt (d := .rx) h]
  rfl

@[simp] theorem appended_epoch (b : Byte) (s : State) : (appended b s).epoch = s.epoch := rfl

/-- The cursor moves by exactly 1 and does not wrap (10_state.md R36). -/
theorem appended_idx {s : State} (h : s.rx.idx.toNat < s.rx.len.toNat) (b : Byte) :
    (appended b s).rx.idx.toNat = s.rx.idx.toNat + 1 := by
  have := s.rx.len.isLt
  show (s.rx.idx + 1#16).toNat = _
  rw [BitVec.toNat_add]
  simp
  omega

theorem cell_appended (b : Byte) (s : State) (d : Dir) (i : Nat) :
    (appended b s).cell d i = if d = .rx ∧ i = s.rx.idx.toNat then b else s.cell d i := by
  rw [← cell_poke s .rx d s.rx.idx.toNat i b]
  exact cell_congr (s := s.poke .rx s.rx.idx.toNat b) (t := appended b s) (by cases d <;> rfl) rfl i

theorem appendThen_full {s : State} (h : s.rx.len.toNat ≤ s.rx.idx.toNat) (b : Byte)
    (k : State → Outcome) : appendThen b s k = .next (respond ErrKind.memory.mask false 0 s) := by
  rw [appendThen, append_full h]; rfl

theorem appendThen_room {s : State} (h : s.rx.idx.toNat < s.rx.len.toNat) (b : Byte)
    (k : State → Outcome) : appendThen b s k = k (appended b s) := by
  rw [appendThen, append_room h]; rfl

theorem appendThen_next {s t : State} {b : Byte} {k : State → Outcome}
    (h : appendThen b s k = .next t) :
    (s.rx.len.toNat ≤ s.rx.idx.toNat ∧ t = respond ErrKind.memory.mask false 0 s) ∨
    (s.rx.idx.toNat < s.rx.len.toNat ∧ k (appended b s) = .next t) := by
  by_cases hr : s.rx.idx.toNat < s.rx.len.toNat
  · rw [appendThen_room hr] at h; exact .inr ⟨hr, h⟩
  · rw [appendThen_full (by omega)] at h
    exact .inl ⟨by omega, (Host.Outcome.next.inj h).symm⟩

theorem declaredLen_ok {s : State} {l : Half} (h : declaredLen s = .ok l) :
    4 < s.rx.len.toNat ∧ l = be16 (s.cell .rx 3) (s.cell .rx 4) := by
  unfold declaredLen at h
  split at h
  · rename_i h3 h4
    have h3 := memRead_ok h3
    have h4 := memRead_ok h4
    exact ⟨h4.1, by rw [← h3.2, ← h4.2]; exact (Except.ok.inj h).symm⟩
  · simp at h
  · simp at h

/-- An accepted byte: where the assembler goes and what the response says (R135). -/
inductive Accepted (b : Byte) (s : State) : Asm → Bool → Prop where
  | start (h : s.asm = .awaitStart) (hb : b = symStart) : Accepted b s .collectingHeader false
  | header (h : s.asm = .collectingHeader) (hi : (appended b s).rx.idx.toNat ≠ 5) :
      Accepted b s .collectingHeader false
  | lengthKnown (h : s.asm = .collectingHeader) (hi : (appended b s).rx.idx.toNat = 5) :
      Accepted b s (if be16 ((appended b s).cell .rx 3) ((appended b s).cell .rx 4) = 0
        then .collectingTail else .collectingPayload) false
  | payload (h : s.asm = .collectingPayload) (hi : (appended b s).rx.idx.toNat ≠
      5 + (be16 ((appended b s).cell .rx 3) ((appended b s).cell .rx 4)).toNat) :
      Accepted b s .collectingPayload false
  | payloadEnd (h : s.asm = .collectingPayload) (hi : (appended b s).rx.idx.toNat =
      5 + (be16 ((appended b s).cell .rx 3) ((appended b s).cell .rx 4)).toNat) :
      Accepted b s .collectingTail false
  | tail (h : s.asm = .collectingTail) (hi : (appended b s).rx.idx.toNat ≠
      12 + (be16 ((appended b s).cell .rx 3) ((appended b s).cell .rx 4)).toNat) :
      Accepted b s .collectingTail false
  | frameEnd (h : s.asm = .collectingTail) (hi : (appended b s).rx.idx.toNat =
      12 + (be16 ((appended b s).cell .rx 3) ((appended b s).cell .rx 4)).toNat) :
      Accepted b s .complete true

/-- A discarded byte and its error (R135): the first test that fails decides. -/
inductive Discarded (b : Byte) (s : State) : ErrKind → Prop where
  | notGenerated (h : s.gen = false) : Discarded b s .memory
  | noStart (hg : s.gen = true) (h : s.asm = .awaitStart) (hb : b ≠ symStart) :
      Discarded b s .startSym
  | full (hg : s.gen = true) (h : s.asm ≠ .complete) (hb : s.asm = .awaitStart → b = symStart)
      (hf : s.rx.len.toNat ≤ s.rx.idx.toNat) : Discarded b s .memory
  | complete (hg : s.gen = true) (h : s.asm = .complete) : Discarded b s .state

theorem appended_with_asm {b : Byte} {s : State} {a : Asm} (h : s.asm = a) :
    { appended b s with asm := a } = appended b s := by subst h; rfl

/-- RXBYTE discards the byte and changes nothing, or accepts it. -/
theorem execRxbyte_next {b : Byte} {s t : State} (h : execRxbyte b s = .next t) :
    (∃ k, Discarded b s k ∧ t = respond k.mask false 0 s) ∨
    (∃ a done, s.gen = true ∧ s.rx.idx.toNat < s.rx.len.toNat ∧ Accepted b s a done ∧
      t = respond errSuccess done 0 { appended b s with asm := a }) := by
  rcases needStorage_next h with ⟨hg, rfl⟩ | ⟨hg, h⟩
  · exact .inl ⟨_, .notGenerated hg, rfl⟩
  · split at h
    · rename_i ha
      unfold rxAwaitStart at h
      split at h
      · exact .inl ⟨_, .noStart hg ha ‹_›, (Host.Outcome.next.inj h).symm⟩
      · rename_i hb
        have hb := Classical.not_not.mp hb
        rcases appendThen_next h with ⟨hf, rfl⟩ | ⟨hr, h⟩
        · exact .inl ⟨_, .full hg (by simp [ha]) (fun _ => hb) hf, rfl⟩
        · exact .inr ⟨_, _, hg, hr, .start ha hb, (Host.Outcome.next.inj h).symm⟩
    · rename_i ha
      rcases appendThen_next h with ⟨hf, rfl⟩ | ⟨hr, h⟩
      · exact .inl ⟨_, .full hg (by simp [ha]) (by simp [ha]) hf, rfl⟩
      · split at h
        · rename_i hi
          obtain ⟨l, hl, h⟩ := faultOr_next h
          obtain ⟨-, rfl⟩ := declaredLen_ok hl
          exact .inr ⟨_, _, hg, hr, .lengthKnown ha hi, (Host.Outcome.next.inj h).symm⟩
        · rename_i hi
          refine .inr ⟨_, _, hg, hr, .header ha hi, ?_⟩
          rw [appended_with_asm ha]
          exact (Host.Outcome.next.inj h).symm
    · rename_i ha
      rcases appendThen_next h with ⟨hf, rfl⟩ | ⟨hr, h⟩
      · exact .inl ⟨_, .full hg (by simp [ha]) (by simp [ha]) hf, rfl⟩
      · obtain ⟨l, hl, h⟩ := faultOr_next h
        obtain ⟨-, rfl⟩ := declaredLen_ok hl
        split at h
        · exact .inr ⟨_, _, hg, hr, .payloadEnd ha ‹_›, (Host.Outcome.next.inj h).symm⟩
        · refine .inr ⟨_, _, hg, hr, .payload ha ‹_›, ?_⟩
          rw [appended_with_asm ha]
          exact (Host.Outcome.next.inj h).symm
    · rename_i ha
      rcases appendThen_next h with ⟨hf, rfl⟩ | ⟨hr, h⟩
      · exact .inl ⟨_, .full hg (by simp [ha]) (by simp [ha]) hf, rfl⟩
      · obtain ⟨l, hl, h⟩ := faultOr_next h
        obtain ⟨-, rfl⟩ := declaredLen_ok hl
        split at h
        · exact .inr ⟨_, _, hg, hr, .frameEnd ha ‹_›, (Host.Outcome.next.inj h).symm⟩
        · refine .inr ⟨_, _, hg, hr, .tail ha ‹_›, ?_⟩
          rw [appended_with_asm ha]
          exact (Host.Outcome.next.inj h).symm
    · exact .inl ⟨_, .complete hg ‹_›, (Host.Outcome.next.inj h).symm⟩

/-! ### The codec -/

theorem execTxpay_next {idx : Half} {b : Byte} {s t : State} (h : execTxpay idx b s = .next t) :
    ((s.gen = false ∨ s.tx.len.toNat ≤ 5 + idx.toNat) ∧
      t = respond ErrKind.memory.mask false 0 s) ∨
    (s.gen = true ∧ 5 + idx.toNat < s.tx.len.toNat ∧
      t = respond errSuccess false 0 (s.poke .tx (5 + idx.toNat) b)) := by
  rcases needStorage_next h with ⟨hg, rfl⟩ | ⟨hg, h⟩
  · exact .inl ⟨.inl hg, rfl⟩
  · split at h
    · exact .inl ⟨.inr ‹_›, (Host.Outcome.next.inj h).symm⟩
    · obtain ⟨u, hu, h⟩ := faultOr_next h
      obtain ⟨hlt, rfl⟩ := memWrite_ok hu
      exact .inr ⟨hg, hlt, (Host.Outcome.next.inj h).symm⟩

theorem execParse_next {s t : State} (h : execParse s = .next t) :
    (s.gen = false ∧ t = recordParse s (.error .memory)) ∨
    (s.gen = true ∧ s.rx.idx.toNat ≤ s.rx.len.toNat ∧
      t = recordParse s (parseFrame s.cfg (s.window .rx 0 s.rx.idx.toNat))) := by
  unfold execParse at h
  split at h
  · obtain ⟨buf, hb, h⟩ := faultOr_next h
    obtain ⟨hle, rfl⟩ := memReadRange_ok hb
    exact .inr ⟨‹_›, by simpa using hle, (Host.Outcome.next.inj h).symm⟩
  · rename_i hg
    exact .inl ⟨by simpa using hg, (Host.Outcome.next.inj h).symm⟩

/-- What `recordParse` leaves, whatever the result: only `rxp` and the response change. -/
theorem recordParse_eq (s : State) (r : Except ErrKind Fields) :
    recordParse s r =
      { s with rxp := (recordParse s r).rxp,
               result := some (.response ⟨(recordParse s r).rxp.error, false, 0⟩) } := by
  cases r <;> rfl

/-- The writes of CONSTRUCT succeed when the frame fits: header, flags, checksum and end symbol land at
their offsets, and every other cell of the send buffer keeps its value. -/
theorem writeFrame_of_le {s : State} (h : 12 + s.txp.payloadLen.toNat ≤ s.tx.len.toNat) :
    ∃ t, writeFrame s = .ok t ∧ Rewritten s t .tx ∧ ∀ i, t.cell .tx i =
      if i < 5 then
        [symStart, s.txp.moduleId, s.txp.cmd, hi8 s.txp.payloadLen, lo8 s.txp.payloadLen].getD i 0
      else if i < 5 + s.txp.payloadLen.toNat then s.cell .tx i
      else if i < 9 + s.txp.payloadLen.toNat then
        [byte3 s.txp.flags, byte2 s.txp.flags, byte1 s.txp.flags, byte0 s.txp.flags].getD
          (i - (5 + s.txp.payloadLen.toNat)) 0
      else if i < 12 + s.txp.payloadLen.toNat then
        [hi8 (checksum16 (t.window .tx 1 (8 + s.txp.payloadLen.toNat))),
          lo8 (checksum16 (t.window .tx 1 (8 + s.txp.payloadLen.toNat))), symEnd].getD
          (i - (9 + s.txp.payloadLen.toNat)) 0
      else s.cell .tx i := by
  obtain ⟨s1, h1, r1, c1⟩ := memWriteRange_of_le (s := s) (d := .tx) (first := 0)
    (bytes := [symStart, s.txp.moduleId, s.txp.cmd, hi8 s.txp.payloadLen, lo8 s.txp.payloadLen])
    (by simp; omega)
  have l1 : s1.tx.len = s.tx.len := r1.len .tx
  obtain ⟨s2, h2, r2, c2⟩ := memWriteRange_of_le (s := s1) (d := .tx)
    (first := 5 + s.txp.payloadLen.toNat)
    (bytes := [byte3 s.txp.flags, byte2 s.txp.flags, byte1 s.txp.flags, byte0 s.txp.flags])
    (by simp [l1]; omega)
  have l2 : s2.tx.len = s.tx.len := (r2.len .tx).trans l1
  have hw : memReadRange s2 .tx 1 (8 + s.txp.payloadLen.toNat) =
      .ok (s2.window .tx 1 (8 + s.txp.payloadLen.toNat)) :=
    memReadRange_of_le (by simp [l2]; omega)
  obtain ⟨s3, h3, r3, c3⟩ := memWriteRange_of_le (s := s2) (d := .tx)
    (first := 9 + s.txp.payloadLen.toNat)
    (bytes := [hi8 (checksum16 (s2.window .tx 1 (8 + s.txp.payloadLen.toNat))),
      lo8 (checksum16 (s2.window .tx 1 (8 + s.txp.payloadLen.toNat))), symEnd])
    (by simp [l2]; omega)
  have hwin : s3.window .tx 1 (8 + s.txp.payloadLen.toNat) =
      s2.window .tx 1 (8 + s.txp.payloadLen.toNat) :=
    window_congr fun k hk => by rw [c3, if_neg (by omega)]
  refine ⟨s3, ?_, (r1.trans r2).trans r3, fun i => ?_⟩
  · simp only [writeFrame, h1, h2, hw, h3]
  · rw [hwin, c3 i]
    simp only [List.length_cons, List.length_nil]
    by_cases a1 : i < 5
    · rw [if_pos a1, if_neg (by omega), c2 i]
      simp only [List.length_cons, List.length_nil]
      rw [if_neg (by omega), c1 i, if_pos (by simp; omega), Nat.sub_zero]
    · rw [if_neg a1]
      by_cases a2 : i < 5 + s.txp.payloadLen.toNat
      · rw [if_pos a2, if_neg (by omega), c2 i]
        simp only [List.length_cons, List.length_nil]
        rw [if_neg (by omega), c1 i, if_neg (by simp; omega)]
      · rw [if_neg a2]
        by_cases a3 : i < 9 + s.txp.payloadLen.toNat
        · rw [if_pos a3, if_neg (by omega), c2 i]
          simp only [List.length_cons, List.length_nil]
          rw [if_pos (by omega)]
        · rw [if_neg a3]
          by_cases a4 : i < 12 + s.txp.payloadLen.toNat
          · rw [if_pos a4, if_pos (by omega)]
          · rw [if_neg a4, if_neg (by omega), c2 i]
            simp only [List.length_cons, List.length_nil]
            rw [if_neg (by omega), c1 i, if_neg (by simp; omega)]

/-- When no check of CONSTRUCT fails, the pair is generated and the frame fits. -/
theorem constructFails_eq_false_iff (s : State) :
    constructFails s = false ↔
      s.gen = true ∧ s.txp.payloadLen.toNat ≤ s.cfg.lenMaxPayload.toNat ∧
        12 + s.txp.payloadLen.toNat ≤ s.tx.len.toNat ∧ s.txp.moduleId ∈ s.cfg.validModules := by
  simp only [constructFails, frameExceeds, lengthExceeded, moduleUnknown, moduleValid,
    Bool.or_eq_false_iff, Bool.not_eq_false', decide_eq_false_iff_not, Nat.not_lt,
    List.contains_iff_mem]
  constructor
  · rintro ⟨⟨⟨h1, h2⟩, h3⟩, h4⟩; exact ⟨h1, h3, h2, h4⟩
  · rintro ⟨h1, h3, h2, h4⟩; exact ⟨⟨⟨h1, h2⟩, h3⟩, h4⟩

/-- The state a CONSTRUCT ends in when its checks pass and its writes left `u`. -/
def constructed (s u : State) : State :=
  respond errSuccess false 0
    { u with tx := { u.tx with idx := BitVec.ofNat 16 (12 + s.txp.payloadLen.toNat) } }

/-- The state CONSTRUCT writes from: the mask it computed is already in `txp.error`. -/
def withTxError (s : State) : State := { s with txp := { s.txp with error := constructErr s } }

theorem execConstruct_fails {s : State} (h : constructFails s = true) :
    execConstruct s = .next (respond (constructErr s) false 0 (withTxError s)) := by
  simp [execConstruct, h, withTxError]

theorem execConstruct_of_writeFrame {s u : State} (h : constructFails s = false)
    (hu : writeFrame (withTxError s) = .ok u) : execConstruct s = .next (constructed s u) := by
  have : writeFrame { s with txp := { s.txp with error := constructErr s } } = .ok u := hu
  simp [execConstruct, h, this, constructed, lenOverhead]

theorem execConstruct_next {s t : State} (h : execConstruct s = .next t) :
    (constructFails s = true ∧ t = respond (constructErr s) false 0 (withTxError s)) ∨
    (constructFails s = false ∧ ∃ u, writeFrame (withTxError s) = .ok u ∧ t = constructed s u) := by
  cases hc : constructFails s with
  | true => rw [execConstruct_fails hc] at h; exact .inl ⟨rfl, (Host.Outcome.next.inj h).symm⟩
  | false =>
    simp only [execConstruct, hc] at h
    obtain ⟨u, hu, h⟩ := faultOr_next h
    exact .inr ⟨rfl, u, hu, (Host.Outcome.next.inj h).symm⟩

/-! ### Read-out -/

theorem readBelowCursor_next {d : Dir} {idx : Half} {s t : State}
    (h : readBelowCursor d idx s = .next t) :
    ((s.gen = false ∨ (s.buffer d).idx.toNat ≤ idx.toNat) ∧
      t = respond ErrKind.memory.mask false 0 s) ∨
    (s.gen = true ∧ idx.toNat < (s.buffer d).idx.toNat ∧ idx.toNat < (s.buffer d).len.toNat ∧
      t = respond errSuccess false ((s.cell d idx.toNat).setWidth 32) s) := by
  rcases needStorage_next h with ⟨hg, rfl⟩ | ⟨hg, h⟩
  · exact .inl ⟨.inl hg, rfl⟩
  · split at h
    · exact .inl ⟨.inr ‹_›, (Host.Outcome.next.inj h).symm⟩
    · rename_i hi
      obtain ⟨b, hb, h⟩ := faultOr_next h
      obtain ⟨hlt, rfl⟩ := memRead_ok hb
      exact .inr ⟨hg, by omega, hlt, (Host.Outcome.next.inj h).symm⟩

theorem execRdreg_next {sel : Byte} {s t : State} (h : execRdreg sel s = .next t) :
    (Reg.ofSel sel = none ∧ t = raiseIllegal (encode (.rdreg sel)) s) ∨
    (∃ r v, Reg.ofSel sel = some r ∧ regValue s r = .ok v ∧ t = respond errSuccess false v s) := by
  unfold execRdreg at h
  split at h
  · exact .inl ⟨‹_›, (Host.Outcome.next.inj h).symm⟩
  · obtain ⟨v, hv, h⟩ := faultOr_next h
    exact .inr ⟨_, v, ‹_›, hv, (Host.Outcome.next.inj h).symm⟩

/-! ### The step -/

/-- What one step can do, by what the port holds. -/
theorem step_next {s t : State} (h : step s = .next t) :
    (s.pending = [] ∧ t = s) ∨
    (∃ rest, s.pending = .reset :: rest ∧ t = resetEvent { s with pending := rest }) ∨
    (∃ w rest i, s.pending = .command w :: rest ∧ decode w = .ok i ∧
      exec i { s with pending := rest } = .next t) ∨
    (∃ w rest e, s.pending = .command w :: rest ∧ decode w = .error e ∧
      t = raiseIllegal w { s with pending := rest }) := by
  rcases hp : s.pending with _ | ⟨_ | _, rest⟩
  · simp only [step, taken, hp] at h
    exact .inl ⟨rfl, (Host.Outcome.next.inj h).symm⟩
  · rename_i w
    cases hd : decode w with
    | ok i =>
      simp only [step, taken, hp, hd, dropInput, List.tail_cons] at h
      exact .inr (.inr (.inl ⟨w, rest, i, rfl, hd, h⟩))
    | error e =>
      simp only [step, taken, hp, hd, dropInput, List.tail_cons] at h
      exact .inr (.inr (.inr ⟨w, rest, e, rfl, hd, (Host.Outcome.next.inj h).symm⟩))
  · simp only [step, taken, hp, dropInput, List.tail_cons] at h
    exact .inr (.inl ⟨rest, rfl, (Host.Outcome.next.inj h).symm⟩)

end Sys2Proof.Machine
end

