-- ==== Sys2Proof/Laws/PerInstr.lean ====
section
/-! SUPPORT. One lemma per operation: the row the opcode map of R83 gives under its mnemonic selects its
word. -/

namespace Sys2Proof.Laws.RowSelects

/-- The opcode map has a row with the operation's mnemonic, and that row selects the operation's word. -/
def Statement (i : Instr) : Prop :=
  ∃ r ∈ opcodeMap, r.mnemonic = i.mnemonic ∧ r.selects (encode i) = true

theorem generate (n : Half) : Statement (.generate n) :=
  ⟨_, Opcode.row_mem .generate, rfl, Instr.row_selects _⟩

theorem destroy : Statement .destroy :=
  ⟨_, Opcode.row_mem .destroy, rfl, Instr.row_selects _⟩

theorem flushtx : Statement .flushtx :=
  ⟨_, Opcode.row_mem .flushtx, rfl, Instr.row_selects _⟩

theorem flushrx : Statement .flushrx :=
  ⟨_, Opcode.row_mem .flushrx, rfl, Instr.row_selects _⟩

theorem flushboth : Statement .flushboth :=
  ⟨_, Opcode.row_mem .flushboth, rfl, Instr.row_selects _⟩

theorem rxbyte (b : Byte) : Statement (.rxbyte b) :=
  ⟨_, Opcode.row_mem .rxbyte, rfl, Instr.row_selects _⟩

theorem parse : Statement .parse :=
  ⟨_, Opcode.row_mem .parse, rfl, Instr.row_selects _⟩

theorem txmod (v : Byte) : Statement (.txmod v) :=
  ⟨_, Opcode.row_mem .txmod, rfl, Instr.row_selects _⟩

theorem txcmd (v : Byte) : Statement (.txcmd v) :=
  ⟨_, Opcode.row_mem .txcmd, rfl, Instr.row_selects _⟩

theorem txlen (v : Half) : Statement (.txlen v) :=
  ⟨_, Opcode.row_mem .txlen, rfl, Instr.row_selects _⟩

theorem txflags (v : Word) : Statement (.txflags v) :=
  ⟨_, Opcode.row_mem .txflags, rfl, Instr.row_selects _⟩

theorem txpay (idx : Half) (b : Byte) : Statement (.txpay idx b) :=
  ⟨_, Opcode.row_mem .txpay, rfl, Instr.row_selects _⟩

theorem construct : Statement .construct :=
  ⟨_, Opcode.row_mem .construct, rfl, Instr.row_selects _⟩

theorem rdreg (sel : Byte) : Statement (.rdreg sel) :=
  ⟨_, Opcode.row_mem .rdreg, rfl, Instr.row_selects _⟩

theorem rxrd (idx : Half) : Statement (.rxrd idx) :=
  ⟨_, Opcode.row_mem .rxrd, rfl, Instr.row_selects _⟩

theorem txrd (idx : Half) : Statement (.txrd idx) :=
  ⟨_, Opcode.row_mem .txrd, rfl, Instr.row_selects _⟩

theorem ckclr : Statement .ckclr :=
  ⟨_, Opcode.row_mem .ckclr, rfl, Instr.row_selects _⟩

theorem ckadd (b : Byte) : Statement (.ckadd b) :=
  ⟨_, Opcode.row_mem .ckadd, rfl, Instr.row_selects _⟩

theorem ckget : Statement .ckget :=
  ⟨_, Opcode.row_mem .ckget, rfl, Instr.row_selects _⟩

end Sys2Proof.Laws.RowSelects
end

