-- ==== Sys2Proof/Laws/Written.lean ====
section
/-! SUPPORT. Which cells have been written since GENERATE, after each operation that writes; and the
canonical form of the arrays, kept by each of them. -/

namespace Sys2Proof.Machine

/-- A cell has been written exactly when it is listed. -/
theorem Memory.lookup_isSome_iff (m : Memory) (i : Nat) :
    (Memory.lookup m i).isSome = true ↔ ∃ c ∈ m, c.1 = i := by
  induction m with
  | nil => simp
  | cons d m ih =>
    rw [Memory.lookup_cons]
    split
    · rename_i h; simp [h]
    · rename_i h; simp [h, ih]

theorem Memory.isSome_lookup_write (m : Memory) (i j : Nat) (b : Byte) :
    (Memory.lookup (Memory.write m i b) j).isSome = (decide (j = i) || (Memory.lookup m j).isSome) := by
  rw [Memory.lookup_write]
  by_cases h : j = i <;> simp [h]

/-- Consecutive writes write those cells, and unwrite none. -/
theorem memWriteRange_isSome {s t : State} {d : Dir} {first : Nat} {bytes : List Byte}
    (h : memWriteRange s d first bytes = .ok t) (i : Nat) :
    ((t.buffer d).mem.lookup i).isSome =
      (decide (first ≤ i ∧ i < first + bytes.length) || ((s.buffer d).mem.lookup i).isSome) := by
  induction bytes generalizing s first with
  | nil =>
    cases h
    simp only [List.length_nil]
    rw [decide_eq_false (by omega), Bool.false_or]
  | cons b bs ih =>
    unfold memWriteRange at h
    split at h
    · rename_i u hu
      obtain ⟨-, rfl⟩ := memWrite_ok hu
      rw [ih h, poke_buffer_self, Memory.isSome_lookup_write, ← Bool.or_assoc]
      congr 1
      rw [Bool.eq_iff_iff]
      simp only [Bool.or_eq_true, decide_eq_true_eq, List.length_cons]
      omega
    · simp at h

/-- The writes of CONSTRUCT write every cell of the frame but the payload's, and unwrite none. -/
theorem writeFrame_isSome {s t : State} (h : writeFrame s = .ok t) (i : Nat) :
    (t.tx.mem.lookup i).isSome =
      (decide (i < 12 + s.txp.payloadLen.toNat ∧ (i < 5 ∨ 5 + s.txp.payloadLen.toNat ≤ i)) ||
        (s.tx.mem.lookup i).isSome) := by
  unfold writeFrame at h
  simp only at h
  split at h
  · simp at h
  · rename_i s1 h1
    split at h
    · simp at h
    · rename_i s2 h2
      split at h
      · simp at h
      · have e1 := memWriteRange_isSome h1 i
        have e2 := memWriteRange_isSome h2 i
        have e3 := memWriteRange_isSome h i
        simp only [buffer_tx] at e1 e2 e3
        rw [e3, e2, e1, ← Bool.or_assoc, ← Bool.or_assoc]
        congr 1
        rw [Bool.eq_iff_iff]
        simp only [Bool.or_eq_true, decide_eq_true_eq, List.length_cons, List.length_nil]
        omega

/-! ### The canonical form -/

/-- The arrays of the state after reset are in canonical form. -/
theorem reset_wf (d : Dir) : Memory.wf (State.reset.buffer d).mem := by
  cases d <;> exact Memory.wf_nil

/-- So are those of freshly allocated storage. -/
theorem allocate_wf (n : Half) (s : State) (d : Dir) : Memory.wf ((allocate n s).buffer d).mem := by
  cases d <;> exact Memory.wf_nil

/-- A write keeps the canonical form of both arrays. -/
theorem memWrite_wf {s t : State} {d : Dir} {i : Nat} {b : Byte} (h : memWrite s d i b = .ok t)
    (hw : ∀ e, Memory.wf (s.buffer e).mem) (e : Dir) : Memory.wf (t.buffer e).mem := by
  obtain ⟨-, rfl⟩ := memWrite_ok h
  by_cases he : e = d
  · subst he; exact (Rewritten.poke s e i b).wf (hw e)
  · rw [poke_buffer_other s he]; exact hw e

/-- So do consecutive writes. -/
theorem memWriteRange_wf {s t : State} {d : Dir} {first : Nat} {bytes : List Byte}
    (h : memWriteRange s d first bytes = .ok t) (hw : ∀ e, Memory.wf (s.buffer e).mem) (e : Dir) :
    Memory.wf (t.buffer e).mem := by
  induction bytes generalizing s first with
  | nil => cases h; exact hw e
  | cons b bs ih =>
    unfold memWriteRange at h
    split at h
    · rename_i u hu
      exact ih h (memWrite_wf hu hw)
    · simp at h

end Sys2Proof.Machine
end

