-- ==== Sys2Proof/Tests/Slice0.lean ====
section
/-! SUPPORT. The model's own tests. Expected values come from spec/95_test_vectors.md (the vector's id
stands in the docstring) or from the rule named there. The second half shows, for every statement with
hypotheses, a concrete state and operands that meet them. -/

namespace Sys2Proof.Tests

open Sys2Proof.Machine Sys2Proof.Claim

/-! ### States -/

/-- `CFG_T` of R6, the configuration of the vectors. -/
def cfgT : Config := ⟨[0, 1, 5], 256, 1024⟩

/-- The reset state under `CFG_T`. -/
def fresh : State := { State.reset with cfg := cfgT }

/-- Cells `first, first+1, …` holding the bytes given. -/
def cells (first : Nat) (bytes : List Byte) : Memory :=
  (List.range bytes.length).map fun k => (first + k, bytes.getD k 0)

/-- After `GENERATE len`: nothing written. -/
def generated (len : Half) : State :=
  { fresh with gen := true, tx := ⟨len, 0, []⟩, rx := ⟨len, 0, []⟩, epoch := 1 }

/-- After `GENERATE len` and the bytes given, with the assembler where they lead. -/
def receiving (len : Half) (bytes : List Byte) (a : Asm) : State :=
  { generated len with rx := ⟨len, BitVec.ofNat 16 bytes.length, cells 0 bytes⟩, asm := a }

/-- After `GENERATE len` with the send Packet loaded and the payload staged. -/
def loaded (len : Half) (m c : Byte) (payload : List Byte) (f : Word) : State :=
  { generated len with
    tx := ⟨len, 0, cells 5 payload⟩
    txp := ⟨m, c, BitVec.ofNat 16 payload.length, f, 0⟩ }

/-- Vector V1, the source's 15-byte frame. -/
def v1 : List Byte :=
  [0x01, 0x05, 0xCC, 0x00, 0x03, 0x01, 0x03, 0x05, 0x00, 0x00, 0x00, 0x00, 0xFF, 0x22, 0xAA]

/-- Vector V2, the source's 12-byte response frame. -/
def v2 : List Byte := [0x01, 0x05, 0xCC, 0x00, 0x00, 0x00, 0x00, 0x00, 0x01, 0xFF, 0x2D, 0xAA]

/-- V1 received completely (TV-ASM-1). -/
def received : State := receiving 64 v1 .complete

/-- V1 constructed (TV-ENC-1). -/
def sent : State :=
  { generated 64 with tx := ⟨64, 15, cells 0 v1⟩, txp := ⟨5, 0xCC, 3, 0, 0⟩ }

/-- Does the outcome go on, with a response and a state that passes the test? -/
def ends (o : Outcome) (err : Word) (complete : Bool) (data : Word) (p : State → Bool) : Bool :=
  match o with
  | .next t => t.result == some (.response ⟨err, complete, data⟩) && p t
  | _ => false

/-- The same response, and nothing else changed. -/
def keeps (s : State) (i : Instr) (err data : Word) : Bool :=
  ends (exec i s) err false data fun t => t == { s with result := t.result }

/-! ### Well-formedness, decoding -/

/-- R161: selector 0x06 is not listed (TV-ILL-10). -/
theorem test_wellFormed_refuses_unlisted_selector : (Instr.rdreg 0x06).wellFormed = false := by decide

theorem test_wellFormed_accepts_listed_selector : (Instr.rdreg 0x25).wellFormed = true := by decide

/-- Section 2.8: lifecycle words. -/
theorem test_decode_lifecycle_words :
    decode 0x0100000040 = .ok (.generate 64) ∧ decode 0x0200000000 = .ok .destroy ∧
    decode 0x0300000000 = .ok .flushtx ∧ decode 0x0400000000 = .ok .flushrx ∧
    decode 0x0500000000 = .ok .flushboth := by decide

/-- Section 2.8: receive words. -/
theorem test_decode_receive_words :
    decode 0x10000000AA = .ok (.rxbyte 0xAA) ∧ decode 0x1100000000 = .ok .parse := by decide

/-- Section 2.8: send words; TXPAY 2 has its index in `arg[23:8]` and its byte in `arg[7:0]` (R81). -/
theorem test_decode_send_words :
    decode 0x2000000005 = .ok (.txmod 5) ∧ decode 0x21000000CC = .ok (.txcmd 0xCC) ∧
    decode 0x2200000003 = .ok (.txlen 3) ∧ decode 0x23DEADBEEF = .ok (.txflags 0xDEADBEEF) ∧
    decode 0x2400000205 = .ok (.txpay 2 5) ∧ decode 0x2400FFFFFF = .ok (.txpay 65535 0xFF) ∧
    decode 0x2500000000 = .ok .construct := by decide

/-- Section 2.8: read-out words. -/
theorem test_decode_readout_words :
    decode 0x3000000024 = .ok (.rdreg 0x24) ∧ decode 0x310000000F = .ok (.rxrd 15) ∧
    decode 0x320000000C = .ok (.txrd 12) := by decide

/-- Section 2.8: checksum words. -/
theorem test_decode_checksum_words :
    decode 0x4000000000 = .ok .ckclr ∧ decode 0x41000000CC = .ok (.ckadd 0xCC) ∧
    decode 0x4200000000 = .ok .ckget := by decide

/-- TV-ILL-1, 2, 3, 12: unassigned opcodes. -/
theorem test_decode_refuses_unassigned_opcodes :
    decode 0x0000000000 = .error (.unassignedOpcode 0x00) ∧
    decode 0x0600000000 = .error (.unassignedOpcode 0x06) ∧
    decode 0xFF00000000 = .error (.unassignedOpcode 0xFF) ∧
    decode 0x1200000000 = .error (.unassignedOpcode 0x12) := by decide

/-- TV-ILL-4 to 9: bits that must be zero. -/
theorem test_decode_refuses_reserved_bits :
    decode 0x1000000100 = .error (.reservedBits 0x100) ∧
    decode 0x0200000001 = .error (.reservedBits 1) ∧
    decode 0x4200000001 = .error (.reservedBits 1) ∧
    decode 0x0100010000 = .error (.reservedBits 0x10000) ∧
    decode 0x2200010000 = .error (.reservedBits 0x10000) ∧
    decode 0x2401000000 = .error (.reservedBits 0x1000000) := by decide

/-- TV-ILL-10, 11: unlisted selectors. -/
theorem test_decode_refuses_unlisted_selectors :
    decode 0x3000000006 = .error (.unlistedSelector 0x06) ∧
    decode 0x3000000031 = .error (.unlistedSelector 0x31) := by decide

/-- The table's numbering, and the port the host's word lands in (TV-LIF-1). -/
theorem test_step_runs_the_fetched_word :
    decodeTableWord 40 0x0100000040 = some (.generate 64) ∧
    ends (step (fresh.withFetchWord 40 0x0100000040)) 0 false 0
      (fun t => t.gen && t.tx.len == 64 && t.rx.len == 64 && t.pending == []) = true := by decide

/-- TV-ILL-1 through a step: no state changes, no response, the next word is taken (R189). -/
theorem test_step_of_an_illegal_word :
    (match step { received with pending := [.command 0, .command 0x4200000000] } with
     | .next t => t == { received with pending := [.command 0x4200000000],
                                       result := some (.illegalCommand 0) }
     | _ => false) = true := by decide

/-- R201: reset from the middle of a frame; the configuration survives. -/
theorem test_step_of_a_reset :
    (match step { received with ck := 7, pending := [.reset] } with
     | .next t => t == { fresh with epoch := 1 }
     | _ => false) = true := by decide

/-! ### The pure functions -/

/-- TV-CK-1, 3, 4, 5. -/
theorem test_checksum16_short_ranges :
    checksum16 [] = 0xFFFF ∧ checksum16 [0xFF] = 0xFF00 ∧ checksum16 [1, 2, 3] = 0xFFF9 ∧
    checksum16 [0xFF, 0xFF] = 0xFE01 := by decide

/-- TV-CK-10, 13. -/
theorem test_checksum16_of_the_source_frames :
    checksum16 [0x05, 0xCC, 0x00, 0x03, 0x01, 0x03, 0x05, 0, 0, 0, 0] = 0xFF22 ∧
    checksum16 [0x05, 0xCC, 0, 0, 0, 0, 0, 0x01] = 0xFF2D := by decide

/-- TV-ENC-1, 2. -/
theorem test_frameEncode_source_frames :
    frameEncode 5 0xCC [1, 3, 5] 0 = v1 ∧ frameEncode 5 0xCC [] 1 = v2 := by decide

/-- TV-ENC-4, 6. -/
theorem test_frameEncode_flags_big_endian :
    frameEncode 1 0xFF [0x01, 0xAA, 0x01, 0xAA] 0x80000001 =
      [0x01, 0x01, 0xFF, 0x00, 0x04, 0x01, 0xAA, 0x01, 0xAA, 0x80, 0x00, 0x00, 0x01, 0xFD, 0x24,
        0xAA] ∧
    frameEncode 1 0x7E [0xAA] 0xDEADBEEF =
      [0x01, 0x01, 0x7E, 0x00, 0x01, 0xAA, 0xDE, 0xAD, 0xBE, 0xEF, 0xFB, 0x9D, 0xAA] := by decide

/-- TV-DEC-2, 3, 4, 6, 7. -/
theorem test_parseFrame_header_errors :
    parseFrame cfgT (v1.set 0 0x02) = .error .startSym ∧
    parseFrame cfgT (v1.set 1 0x07) = .error .module ∧
    parseFrame cfgT (v1.set 1 0x01) = .error .checksum ∧
    parseFrame cfgT (v1.set 3 0x01) = .error .incomplete ∧
    parseFrame cfgT (v1.set 4 0x02) = .error .checksum := by decide

/-- TV-DEC-13, 15, 17, 26, 30. -/
theorem test_parseFrame_tail_errors :
    parseFrame cfgT (v1.set 14 0xAB) = .error .endSym ∧
    parseFrame cfgT ((v1.set 1 0x07).set 14 0xAB) = .error .module ∧
    parseFrame cfgT (v1 ++ [0xDE, 0xAD]) = .ok ⟨5, 0xCC, 3, 0⟩ ∧
    parseFrame cfgT (v1.take 14) = .error .incomplete ∧
    parseFrame cfgT [0x01, 0x01, 0xFF, 0x00, 0x04, 0x01, 0xAA, 0x01, 0xAA, 0x80, 0x00, 0x00, 0x01,
      0xFD, 0x24, 0xAA] = .ok ⟨1, 0xFF, 4, 0x80000001⟩ := by decide

/-! ### Lifecycle -/

/-- TV-LIF-10. -/
theorem test_generate_the_maximum :
    ends (exec (.generate 1024) fresh) 0 false 0 (fun t => t == { generated 1024 with result := t.result }) = true := by
  decide

/-- TV-LIF-2, 3, 4. -/
theorem test_generate_errors :
    keeps (generated 64) (.generate 64) 0x02 0 = true ∧ keeps fresh (.generate 1025) 0x01 0 = true ∧
    keeps (generated 64) (.generate 2000) 0x03 0 = true := by decide

/-- TV-LIF-5. -/
theorem test_destroy_not_generated : keeps fresh .destroy 0x01 0 = true := by decide

/-- TV-LIF-17 and TV-CK-28: Packets cleared, `ck` kept. -/
theorem test_destroy_clears_packets :
    ends (exec .destroy { received with rxp := ⟨5, 0xCC, 3, 0, 0⟩, txp := ⟨1, 2, 3, 4, 5⟩, ck := 0xDD })
      0 false 0 (fun t => t == { fresh with ck := 0xDD, epoch := 1, result := t.result }) = true := by
  decide

/-- The start of TV-LIF-13: V1 constructed, and mid-frame (2, 6) in the receive side. -/
def midway : State :=
  { sent with rx := ⟨64, 6, cells 0 (v1.take 6)⟩, asm := .collectingPayload }

/-- TV-LIF-13. -/
theorem test_flushtx_leaves_receive_side :
    ends (exec .flushtx midway) 0 false 0
      (fun t => t == { midway with tx := { midway.tx with idx := 0 }, result := t.result }) = true := by
  decide

/-- TV-LIF-14. -/
theorem test_flushrx_leaves_send_side :
    ends (exec .flushrx midway) 0 false 0
      (fun t => t == { midway with rx := { midway.rx with idx := 0 }, asm := .awaitStart,
                                   result := t.result }) = true := by decide

/-- TV-LIF-15, and TV-LIF-12. -/
theorem test_flushboth :
    ends (exec .flushboth midway) 0 false 0
      (fun t => t.tx.idx == 0 && t.rx.idx == 0 && t.asm == .awaitStart && t.tx.mem == midway.tx.mem)
      = true ∧
    keeps fresh .flushboth 0x01 0 = true := by decide

/-! ### Receive -/

/-- TV-ASM-1, bytes 5 and 15. -/
theorem test_rxbyte_length_and_end :
    ends (exec (.rxbyte 0x03) (receiving 64 (v1.take 4) .collectingHeader)) 0 false 0
      (fun t => t == { receiving 64 (v1.take 5) .collectingPayload with result := t.result }) = true ∧
    ends (exec (.rxbyte 0xAA) (receiving 64 (v1.take 14) .collectingTail)) 0 true 0
      (fun t => t == { received with result := t.result }) = true := by decide

/-- TV-ASM-6, 8, 11, 12, 14. -/
theorem test_rxbyte_errors :
    keeps received (.rxbyte 0x01) 0x02 0 = true ∧
    keeps (receiving 14 (v1.take 14) .collectingTail) (.rxbyte 0xAA) 0x01 0 = true ∧
    keeps (generated 0) (.rxbyte 0x01) 0x01 0 = true ∧
    keeps (generated 0) (.rxbyte 0x02) 0x10 0 = true ∧
    keeps fresh (.rxbyte 0x07) 0x01 0 = true := by decide

/-- TV-PAR-3. -/
theorem test_parse_success :
    ends (exec .parse received) 0 false 0
      (fun t => t == { received with rxp := ⟨5, 0xCC, 3, 0, 0⟩, result := t.result }) = true := by decide

/-- TV-PAR-1, and TV-PAR-5: the data fields of the last good frame stay. -/
theorem test_parse_errors :
    ends (exec .parse fresh) 0x01 false 0 (fun t => t.rxp == ⟨0, 0, 0, 0, 1⟩) = true ∧
    ends (exec .parse { receiving 64 (v1.set 13 0x23) .complete with rxp := ⟨5, 0xCC, 0, 1, 0⟩ })
      0x20 false 0 (fun t => t.rxp == ⟨5, 0xCC, 0, 1, 0x20⟩) = true := by decide

/-! ### Send -/

/-- TV-TX-2. -/
theorem test_txmod : ends (exec (.txmod 7) fresh) 0 false 0
    (fun t => t == { fresh with txp := ⟨7, 0, 0, 0, 0⟩, result := t.result }) = true := by decide

/-- R111. -/
theorem test_txcmd : ends (exec (.txcmd 0xCC) fresh) 0 false 0
    (fun t => t == { fresh with txp := ⟨0, 0xCC, 0, 0, 0⟩, result := t.result }) = true := by decide

/-- TV-TX-3. -/
theorem test_txlen : ends (exec (.txlen 65535) fresh) 0 false 0
    (fun t => t == { fresh with txp := ⟨0, 0, 65535, 0, 0⟩, result := t.result }) = true := by decide

/-- TV-TX-4. -/
theorem test_txflags : ends (exec (.txflags 0xFFFFFFFF) fresh) 0 false 0
    (fun t => t == { fresh with txp := ⟨0, 0, 0, 0xFFFFFFFF, 0⟩, result := t.result }) = true := by
  decide

/-- TV-TX-6: the last cell. -/
theorem test_txpay_last_cell : ends (exec (.txpay 10 0x11) (generated 16)) 0 false 0
    (fun t => t == { generated 16 with tx := ⟨16, 0, [(15, 0x11)]⟩, result := t.result }) = true := by
  decide

/-- TV-TX-5, 7, 8, 9. -/
theorem test_txpay_errors :
    keeps fresh (.txpay 0 0x11) 0x01 0 = true ∧ keeps (generated 16) (.txpay 11 0x11) 0x01 0 = true ∧
    keeps (generated 1024) (.txpay 65535 0) 0x01 0 = true ∧
    keeps (generated 5) (.txpay 0 0) 0x01 0 = true := by decide

/-- TV-ENC-1. -/
theorem test_construct_v1 :
    ends (exec .construct (loaded 64 5 0xCC [1, 3, 5] 0)) 0 false 0
      (fun t => t == { sent with result := t.result }) = true := by decide

/-- TV-CON-2, 3, 6, 8, 18: the mask, and nothing else. -/
theorem test_construct_errors :
    [((20 : Half), (5 : Byte), (9 : Half), (0x01 : Word)), (20, 7, 8, 0x08), (20, 7, 257, 0x0D),
      (1024, 5, 257, 0x04), (64, 5, 65535, 0x05)].all (fun (len, m, l, err) =>
        let s := { generated len with txp := ⟨m, 0, l, 0, 0⟩ }
        ends (exec .construct s) err false 0
          fun t => t == { s with txp := ⟨m, 0, l, 0, err⟩, result := t.result }) = true := by decide

/-! ### Read-out -/

/-- TV-RD-2, TV-RD-5, TV-RD-6. -/
theorem test_rdreg_status_and_expected :
    keeps received (.rdreg 0x00) 0 0x69 = true ∧ keeps received (.rdreg 0x05) 0 15 = true ∧
    keeps (receiving 64 [0x01, 0x05, 0xCC, 0x01, 0x00] .collectingPayload) (.rdreg 0x05) 0 268 = true ∧
    keeps (receiving 64 [0x01, 0x05, 0xCC, 0xFF, 0xFF] .collectingPayload) (.rdreg 0x05) 0 65547 = true := by
  decide

/-- TV-LIF-19, 20, TV-RD-14. -/
theorem test_rdreg_paymax_and_ck :
    keeps (generated 20) (.rdreg 0x15) 0 8 = true ∧ keeps (generated 11) (.rdreg 0x25) 0 0 = true ∧
    keeps { fresh with ck := 0xDD } (.rdreg 0x30) 0 0xDD = true := by decide

/-- TV-RD-7, 9. -/
theorem test_rxrd :
    keeps received (.rxrd 7) 0 0x05 = true ∧ keeps received (.rxrd 14) 0 0xAA = true ∧
    keeps received (.rxrd 15) 0x01 0 = true ∧
    keeps { received with rx := { received.rx with idx := 0 }, asm := .awaitStart } (.rxrd 0) 0x01 0
      = true := by decide

/-- TV-RD-11, 13. -/
theorem test_txrd :
    keeps sent (.txrd 12) 0 0xFF = true ∧ keeps sent (.txrd 15) 0x01 0 = true ∧
    keeps fresh (.txrd 0) 0x01 0 = true := by decide

/-! ### Checksum port -/

/-- TV-CK-20. -/
theorem test_ckclr : ends (exec .ckclr { fresh with ck := 9 }) 0 false 0
    (fun t => t == { fresh with result := t.result }) = true := by decide

/-- TV-CK-22, 27. -/
theorem test_ckadd :
    ends (exec (.ckadd 0xCC) { fresh with ck := 5 }) 0 false 0 (fun t => t.ck == 0xD1) = true ∧
    ends (exec (.ckadd 0x01) { fresh with ck := 0xFFFF }) 0 false 0 (fun t => t.ck == 0) = true := by
  decide

/-- TV-CK-24, 29. -/
theorem test_ckget :
    keeps { fresh with ck := 0xDD } .ckget 0 0xFF22 = true ∧ keeps fresh .ckget 0 0xFFFF = true := by
  decide

/-! ### The driver -/

/-- Callbacks that echo; `0x05` arrives at moment 1, nothing else ever. -/
def trickle : Environment :=
  { command := fun _ m => m, ack := fun _ _ => 0, arrive := fun n => if n = 1 then [0x05] else [] }

/-- R171: a byte that arrives while SERVICE runs is read by the same SERVICE, after the one that was
waiting; then the queue is empty and SERVICE returns, the partial frame staying in the block. -/
theorem test_service_reads_what_arrives_meanwhile :
    (match serviceFor trickle 3 ((Driver.start (generated 64)).appendBytes [0x01]) with
     | .next (.returned d) => d.consumed == [0x01, 0x05] && d.input == [] && d.block.rx.idx == 2 &&
         d.block.asm == .collectingHeader && d.reports == []
     | _ => false) = true := by decide

/-- R171, R173: a framing error is reported and flushed, and the loop goes on. -/
theorem test_service_reports_and_continues :
    (match serviceFor trickle 3 ((Driver.start (generated 64)).appendBytes [0x55]) with
     | .next (.returned d) => d.consumed == [0x55, 0x05] && d.reports == [0x10, 0x10] &&
         d.block.asm == .awaitStart
     | _ => false) = true := by decide

/-! ### Witnesses: every hypothesis of every statement can be met -/

theorem witness_DecodeEncodeRoundTrip : (Instr.rdreg 0x30).wellFormed = true := by decide

theorem witness_EncodeDecodeRoundTrip : decode 0x3000000030 = .ok (.rdreg 0x30) := by decide

/-- A row is selected, and RDREG's selector is listed. -/
theorem witness_DecodeAgreesWithOpcodeMap :
    (∃ r ∈ printedMap, (0x3000000025 : CmdWord) &&& r.2.2 = r.2.1 ∧ r.1 = "RDREG") ∧
    (0x3000000025 : CmdWord).extractLsb' 0 8 ∈ printedSelectors :=
  ⟨⟨("RDREG", 0x3000000000, 0xFFFFFFFF00), by decide, by decide, rfl⟩, by decide⟩

/-- One word of each shape (R81). -/
theorem witness_OperandFieldsOfEachShape :
    decode 0x1100000000 = .ok .parse ∧ decode 0x10000000FF = .ok (.rxbyte 0xFF) ∧
    decode 0x310000FFFF = .ok (.rxrd 0xFFFF) ∧ decode 0x23FFFFFFFF = .ok (.txflags 0xFFFFFFFF) ∧
    decode 0x2400FFFF00 = .ok (.txpay 0xFFFF 0) := by decide

/-- A word illegal by each clause of R91, and a state in which it is next. -/
theorem witness_IllegalWordChangesNothing :
    illegal 0x1200000000 ∧ illegal 0x4200000001 ∧ illegal 0x3000000031 ∧
    { received with pending := [.command 0x1200000000] }.pending = .command 0x1200000000 :: [] :=
  ⟨.inl (by decide), .inr (.inl (by decide)), .inr (.inr (by decide)), rfl⟩

theorem witness_StepRunsTheDecodedOperation :
    { fresh with pending := [.command 0x0100000040] }.pending = .command 0x0100000040 :: [] ∧
    decode 0x0100000040 = .ok (.generate 64) := by decide

theorem witness_QuiescentWithoutACommand : received.pending = [] := rfl

theorem witness_ResetRestoresEveryRegister :
    { received with pending := [.reset] }.pending = .reset :: [] := rfl

theorem witness_CommandsRunInIssueOrder :
    ∀ i ∈ [Instr.generate 64, .rdreg 0x00, .destroy], i.wellFormed = true := by decide

theorem witness_ChecksumLaws :
    [(1 : Byte), 2].Perm [2, 1] ∧ 1 < [(1 : Byte), 2].length ∧ 7 < 8 :=
  ⟨.swap _ _ _, by decide, by decide⟩

theorem witness_OnlyTheChecksumPortUsesTheAccumulator :
    Instr.rdreg 0x25 ≠ .ckclr ∧ (∀ b, Instr.rdreg 0x25 ≠ .ckadd b) ∧ Instr.rdreg 0x25 ≠ .ckget ∧
    Instr.rdreg 0x25 ≠ .rdreg 0x30 := by
  refine ⟨nofun, fun _ => nofun, nofun, by decide⟩

/-- Not generated; the first index without a cell; the last index with one. -/
theorem witness_TxpayStagesOneByte :
    fresh.gen = false ∧ (generated 16).tx.len.toNat ≤ 5 + (11 : Half).toNat ∧
    (generated 16).gen = true ∧ 5 + (10 : Half).toNat < (generated 16).tx.len.toNat := by decide

/-- Each check alone, and all three together. -/
theorem witness_ConstructChecksBeforeItWrites :
    constructErr { generated 1024 with txp := ⟨5, 0, 257, 0, 0⟩ } = 0x04 ∧
    constructErr { generated 20 with txp := ⟨5, 0, 9, 0, 0⟩ } = 0x01 ∧
    constructErr { generated 20 with txp := ⟨7, 0, 8, 0, 0⟩ } = 0x08 ∧
    constructErr { fresh with txp := ⟨7, 0, 300, 0, 0⟩ } = 0x0D ∧
    12 ≤ (generated 12).tx.len.toNat := by decide

/-- The frame fills the buffer (TV-CON-1), and the smallest buffer (TV-CON-12). -/
theorem witness_ConstructWritesTheFrame :
    (StorageInv (loaded 20 5 0 [1, 2, 3, 4, 5, 6, 7, 8] 0) ∧
      constructReady (loaded 20 5 0 [1, 2, 3, 4, 5, 6, 7, 8] 0)) ∧
    StorageInv (loaded 12 5 0 [] 0) ∧ constructReady (loaded 12 5 0 [] 0) := by
  refine ⟨⟨by decide, ?_⟩, by decide, ?_⟩ <;> (unfold constructReady; decide)

theorem witness_FrameFieldOffsets : [(1 : Byte), 3, 5].length ≤ 65535 := by decide

theorem witness_WorkedFramesOfTheSource :
    (generated 15).gen = true ∧ (5 : Byte) ∈ (generated 15).cfg.validModules ∧
    3 ≤ (generated 15).cfg.lenMaxPayload.toNat ∧ 15 ≤ (generated 15).tx.len.toNat := by decide

/-- A valid frame, and a corrupt value for each field (TV-DEC-1, 2, 3, 11, 13). -/
theorem witness_CorruptionYieldsTheFirstError :
    parseFrame cfgT v1 = .ok ⟨5, 0xCC, 3, 0⟩ ∧ (0x02 : Byte) ≠ 0x01 ∧
    (0x07 : Byte) ∉ cfgT.validModules ∧ (0xFE : Byte) ≠ v1.getD (9 + frameLen v1) 0 ∧
    (0x23 : Byte) ≠ v1.getD (10 + frameLen v1) 0 ∧ (0xAB : Byte) ≠ 0xAA := by decide

/-- The first and the last byte of the range. -/
theorem witness_SingleBitErrorsAreCaught :
    parseFrame cfgT v1 = .ok ⟨5, 0xCC, 3, 0⟩ ∧ 1 ≤ 1 ∧ 8 + frameLen v1 = 11 ∧ 11 ≠ 3 ∧ 11 ≠ 4 ∧
    7 < 8 := by decide

theorem witness_ShortBuffersAreIncomplete : [(1 : Byte)].length ≤ 65535 ∧ 12 < 12 + [(1 : Byte)].length := by
  decide

/-- Not generated; an error of each kind but START_SYM; a good frame. -/
theorem witness_ParseRecordsTheResult :
    fresh.gen = false ∧ received.gen = true ∧ received.rx.idx.toNat ≤ received.rx.len.toNat ∧
    parseFrame cfgT (received.window .rx 0 15) = .ok ⟨5, 0xCC, 3, 0⟩ ∧
    parseFrame cfgT ((generated 64).window .rx 0 0) = .error .incomplete ∧
    parseFrame cfgT ((receiving 64 (v1.set 1 7) .complete).window .rx 0 15) = .error .module ∧
    parseFrame cfgT ((receiving 64 (v1.set 13 0x23) .complete).window .rx 0 15) = .error .checksum ∧
    parseFrame cfgT ((receiving 64 (v1.set 14 0xAB) .complete).window .rx 0 15) = .error .endSym := by
  decide

theorem received_sound : StorageInv received ∧ AssemblerInv received := by decide

theorem witness_ParseIncompleteUnlessComplete :
    (StorageInv received ∧ AssemblerInv received ∧ received.gen = true ∧ received.asm = .complete) ∧
    StorageInv midway ∧ AssemblerInv midway ∧ midway.gen = true ∧ midway.asm ≠ .complete :=
  ⟨⟨by decide, by decide, rfl, rfl⟩, by decide, by decide, rfl, by decide⟩

theorem witness_ParsedPayloadFitsTheBuffer :
    ∃ t, received.gen = true ∧ exec .parse received = .next t ∧ handsBack t 0 false 0 :=
  ⟨_, rfl, rfl, rfl⟩

theorem witness_ParseInvertsEncode :
    (5 : Byte) ∈ cfgT.validModules ∧ [(1 : Byte), 3, 5].length ≤ 65535 := by decide

theorem witness_LoopbackRoundTrip :
    StorageInv (loaded 15 5 0xCC [1, 3, 5] 0) ∧ constructReady (loaded 15 5 0xCC [1, 3, 5] 0) ∧
    (loaded 15 5 0xCC [1, 3, 5] 0).asm = .awaitStart ∧ (loaded 15 5 0xCC [1, 3, 5] 0).rx.idx = 0 := by
  refine ⟨by decide, ?_, rfl, rfl⟩
  unfold constructReady; decide

/-- A sound state at the state, cursor and capacity given; `len` and `l` the numbers of the table. -/
def StandsAt (s : State) (a : Asm) (idx len : Nat) : Prop :=
  StorageInv s ∧ AssemblerInv s ∧ s.gen = true ∧ s.asm = a ∧ s.rx.idx.toNat = idx ∧ s.rx.len.toNat = len

/-- Await rows: not generated, no room, room. -/
theorem witness_RxbyteTransitionTable_start :
    (StorageInv fresh ∧ AssemblerInv fresh ∧ fresh.gen = false) ∧ StandsAt (generated 0) .awaitStart 0 0 ∧
    StandsAt (generated 1) .awaitStart 0 1 := by
  refine ⟨by decide, ?_, ?_⟩ <;> (unfold StandsAt; decide)

/-- Header rows: full; below byte 5; byte 5 with and without a payload. -/
theorem witness_RxbyteTransitionTable_header :
    StandsAt (receiving 3 (v1.take 3) .collectingHeader) .collectingHeader 3 3 ∧
    StandsAt (receiving 4 (v1.take 3) .collectingHeader) .collectingHeader 3 4 ∧
    StandsAt (receiving 5 (v1.take 4) .collectingHeader) .collectingHeader 4 5 ∧
    0 < 256 * ((receiving 5 (v1.take 4) .collectingHeader).cell .rx 3).toNat + (3 : Byte).toNat ∧
    256 * ((receiving 5 (v1.take 4) .collectingHeader).cell .rx 3).toNat + (0 : Byte).toNat = 0 := by
  refine ⟨?_, ?_, ?_, by decide, by decide⟩ <;> (unfold StandsAt; decide)

/-- Payload rows, `l = 3`: full; below the last payload byte; the last. -/
theorem witness_RxbyteTransitionTable_payload :
    StandsAt (receiving 6 (v1.take 6) .collectingPayload) .collectingPayload 6 6 ∧
    StandsAt (receiving 7 (v1.take 6) .collectingPayload) .collectingPayload 6 7 ∧
    StandsAt (receiving 8 (v1.take 7) .collectingPayload) .collectingPayload 7 8 ∧
    rxLength (receiving 8 (v1.take 7) .collectingPayload) = 3 := by
  refine ⟨?_, ?_, ?_, by decide⟩ <;> (unfold StandsAt; decide)

/-- Tail and complete rows, `l = 3`: full; below the last byte; the last; complete. -/
theorem witness_RxbyteTransitionTable_tail :
    StandsAt (receiving 14 (v1.take 14) .collectingTail) .collectingTail 14 14 ∧
    StandsAt (receiving 15 (v1.take 13) .collectingTail) .collectingTail 13 15 ∧
    StandsAt (receiving 15 (v1.take 14) .collectingTail) .collectingTail 14 15 ∧
    StandsAt received .complete 15 64 := by
  refine ⟨?_, ?_, ?_, ?_⟩ <;> (unfold StandsAt; decide)

/-- The frame just fits, and it is one byte too long; indices at both ends of each range. -/
theorem witness_AssemblerCountsTheFrame :
    StorageInv (generated 15) ∧ StorageInv (generated 14) ∧ (generated 14).gen = true ∧
    (generated 14).asm = .awaitStart ∧ (generated 14).rx.idx = 0 ∧ v1.length = 12 + frameLen v1 ∧
    v1.getD 0 0 = 0x01 ∧ 12 + frameLen v1 ≤ (generated 15).rx.len.toNat ∧
    (generated 14).rx.len.toNat < 12 + frameLen v1 ∧ 1 ≤ 14 ∧ 14 < 12 + frameLen v1 ∧
    14 ≤ (generated 14).rx.len.toNat := by decide

/-- The four cases, at the maximum and one above it. -/
theorem witness_GenerateAllocatesBothBuffers :
    (generated 64).gen = true ∧ fresh.gen = false ∧ (1024 : Half).toNat ≤ fresh.cfg.blockLenMax.toNat ∧
    fresh.cfg.blockLenMax.toNat < (1025 : Half).toNat := by decide

theorem witness_DestroyLeavesOnlyTheAccumulator : fresh.gen = false ∧ received.gen = true := by decide

theorem witness_FlushesRewindCursorsOnly : fresh.gen = false ∧ midway.gen = true := by decide

theorem witness_OnlyGenerateSetsAndDestroyClearsGen :
    (∃ t, exec (.generate 64) fresh = .next t ∧ fresh.gen = false ∧ t.gen = true) ∧
    ∃ t, exec .destroy received = .next t ∧ received.gen = true ∧ t.gen = false :=
  ⟨⟨_, rfl, by decide, by decide⟩, _, rfl, by decide, rfl⟩

theorem witness_RdregReturnsTheSelectedRegister :
    StorageInv received ∧ (0x06 : Byte) ∉ printedSelectors := by decide

/-- Not generated; at the cursor; just below it, on both sides. -/
theorem witness_BytesBelowTheCursorAreReadable :
    StorageInv fresh ∧ fresh.gen = false ∧ StorageInv midway ∧ midway.gen = true ∧
    midway.rx.idx.toNat ≤ (6 : Half).toNat ∧ (5 : Half).toNat < midway.rx.idx.toNat ∧
    midway.tx.idx.toNat ≤ (15 : Half).toNat ∧ (14 : Half).toNat < midway.tx.idx.toNat := by decide

theorem witness_ReadOutChangesNothing : ∃ t, exec (.rxrd 3) received = .next t := ⟨_, rfl⟩

theorem witness_StatusTakesSixValues : StorageInv received ∧ AssemblerInv received := received_sound

/-- A response with a bit set. -/
theorem witness_ErrorBitsOfEachOperation :
    ∃ t r, exec .parse fresh = .next t ∧ t.result = some (.response r) ∧ r.err = 0x01 :=
  ⟨_, _, rfl, rfl, rfl⟩

theorem witness_ErrorsArePrecise :
    ∃ t r, exec (.generate 2000) (generated 64) = .next t ∧ t.result = some (.response r) ∧ r.err ≠ 0 :=
  ⟨_, _, rfl, rfl, by decide⟩

/-- A response that completes a frame, and one with data. -/
theorem witness_ShapeOfEveryResponse :
    (∃ t r, exec (.rxbyte 0xAA) (receiving 15 (v1.take 14) .collectingTail) = .next t ∧
      t.result = some (.response r) ∧ r.complete = true) ∧
    ∃ t r, exec .ckget fresh = .next t ∧ t.result = some (.response r) ∧ r.data ≠ 0 :=
  ⟨⟨_, _, rfl, rfl, by decide⟩, _, _, rfl, rfl, by decide⟩

theorem witness_ErrorRegistersHoldTheLastMask :
    (∃ t, exec .construct fresh = .next t) ∧ (∃ t, exec .parse fresh = .next t) ∧
    ∃ t, exec .flushtx midway = .next t := ⟨⟨_, rfl⟩, ⟨_, rfl⟩, _, rfl⟩

theorem witness_WritersOfEachRegister : ∃ t, exec (.rxbyte 0x03) midway = .next t := ⟨_, rfl⟩

theorem witness_ConfigurationIsNeverTouched :
    ∃ t, step { received with pending := [.reset] } = .next t := ⟨_, rfl⟩

/-- A word that runs, from a sound state; and SendInv with a frame in the send buffer. -/
theorem witness_StepKeeps :
    StorageInv midway ∧ AssemblerInv midway ∧ SendInv midway ∧ midway.tx.idx.toNat ≠ 0 ∧
    ErrorInv midway ∧
    ∃ t, step { midway with pending := [.command 0x1000000003] } = .next t :=
  ⟨by decide, by decide, by decide, by decide, by decide, _, rfl⟩

theorem witness_SoundStatesNeverStop : StorageInv midway ∧ AssemblerInv midway := by decide

theorem witness_FlushMakesTheFrameUnreachable :
    (∃ t, exec .flushrx received = .next t) ∧ (∃ t, exec .flushboth received = .next t) ∧
    ∃ t, exec .destroy received = .next t := ⟨⟨_, rfl⟩, ⟨_, rfl⟩, _, rfl⟩

/-- TV-TX-11: the first payload byte of V1 replaced. -/
theorem witness_StagingUnderAFinishedFrameBreaksIt :
    ∃ t u, exec .construct (loaded 64 5 0xCC [1, 3, 5] 0) = .next t ∧ handsBack t 0 false 0 ∧
      (0 : Half).toNat < t.txp.payloadLen.toNat ∧ (2 : Byte) ≠ t.cell .tx (5 + (0 : Half).toNat) ∧
      exec (.txpay 0 2) t = .next u :=
  ⟨_, _, rfl, rfl, by decide, by decide, rfl⟩

theorem witness_HandleFrameLeavesTheChannelReady :
    StorageInv (Driver.start received).block ∧ AssemblerInv (Driver.start received).block ∧
    (Driver.start received).block.gen = true := by decide

/-- One byte queued at the start, another arriving after the first operation. -/
theorem witness_ServiceConsumesEachByteOnce :
    ∃ p, serviceFor trickle 3 ((Driver.start (generated 64)).appendBytes [0x01]) = .next p ∧
      p.driver.consumed = [0x01, 0x05] := ⟨_, rfl, rfl⟩

theorem witness_ServiceReturnsOnceTheTransportIsSilent :
    StorageInv (Driver.start received).block ∧ AssemblerInv (Driver.start received).block ∧
    (Driver.start received).block.gen = true ∧ ∀ n, 2 ≤ n → trickle.arrive n = [] :=
  ⟨by decide, by decide, rfl, fun n hn => if_neg (by omega)⟩

end Sys2Proof.Tests
end

section
/-! SUPPORT. The generation flag (10_state.md R21): what each operation leaves in `gen`. GENERATE and
DESTROY are the two that move it; the others keep it, also those that write a buffer or a cursor. -/

namespace Sys2Proof.Machine

/-! ### Operations that keep the flag -/

theorem Rewritten.gen {s t : State} {d : Dir} (h : Rewritten s t d) : t.gen = s.gen := by
  rw [h.same]; cases d <;> rfl

/-- The writes of a CONSTRUCT whose checks passed change only the array of the send buffer. -/
theorem writeFrame_rewritten {s u : State} (hc : constructFails s = false)
    (hu : writeFrame (withTxError s) = .ok u) : Rewritten (withTxError s) u .tx := by
  obtain ⟨-, -, hfit, -⟩ := (constructFails_eq_false_iff s).mp hc
  obtain ⟨v, hv, hr, -⟩ := writeFrame_of_le (s := withTxError s) hfit
  cases hu.symm.trans hv
  exact hr

theorem execConstruct_gen {s t : State} (h : execConstruct s = .next t) : t.gen = s.gen := by
  obtain ⟨-, rfl⟩ | ⟨hc, u, hu, rfl⟩ := execConstruct_next h
  · rfl
  · exact (writeFrame_rewritten hc hu).gen

theorem execFlushtx_gen {s t : State} (h : execFlushtx s = .next t) : t.gen = s.gen := by
  obtain ⟨-, rfl⟩ | ⟨-, rfl⟩ := execFlushtx_next h <;> rfl

theorem execFlushrx_gen {s t : State} (h : execFlushrx s = .next t) : t.gen = s.gen := by
  obtain ⟨-, rfl⟩ | ⟨-, rfl⟩ := execFlushrx_next h <;> rfl

theorem execFlushboth_gen {s t : State} (h : execFlushboth s = .next t) : t.gen = s.gen := by
  obtain ⟨-, rfl⟩ | ⟨-, rfl⟩ := execFlushboth_next h <;> rfl

theorem execRxbyte_gen {b : Byte} {s t : State} (h : execRxbyte b s = .next t) : t.gen = s.gen := by
  obtain ⟨k, -, rfl⟩ | ⟨a, done, -, -, -, rfl⟩ := execRxbyte_next h <;> rfl

theorem execParse_gen {s t : State} (h : execParse s = .next t) : t.gen = s.gen := by
  obtain ⟨-, rfl⟩ | ⟨-, -, rfl⟩ := execParse_next h <;> rw [recordParse_eq]

theorem execTxpay_gen {idx : Half} {b : Byte} {s t : State} (h : execTxpay idx b s = .next t) :
    t.gen = s.gen := by
  obtain ⟨-, rfl⟩ | ⟨-, -, rfl⟩ := execTxpay_next h <;> rfl

theorem execRdreg_gen {sel : Byte} {s t : State} (h : execRdreg sel s = .next t) : t.gen = s.gen := by
  obtain ⟨-, rfl⟩ | ⟨r, v, -, -, rfl⟩ := execRdreg_next h <;> rfl

theorem readBelowCursor_gen {d : Dir} {idx : Half} {s t : State}
    (h : readBelowCursor d idx s = .next t) : t.gen = s.gen := by
  obtain ⟨-, rfl⟩ | ⟨-, -, -, rfl⟩ := readBelowCursor_next h <;> rfl

/-- Every operation but GENERATE and DESTROY keeps the generation flag. -/
theorem exec_keeps_gen {i : Instr} {s t : State} (h : exec i s = .next t)
    (hgen : ∀ n, i ≠ .generate n) (hdes : i ≠ .destroy) : t.gen = s.gen := by
  cases i with
  | generate n => exact absurd rfl (hgen n)
  | destroy => exact absurd rfl hdes
  | flushtx => exact execFlushtx_gen h
  | flushrx => exact execFlushrx_gen h
  | flushboth => exact execFlushboth_gen h
  | rxbyte b => exact execRxbyte_gen h
  | parse => exact execParse_gen h
  | txpay idx b => exact execTxpay_gen h
  | construct => exact execConstruct_gen h
  | rdreg sel => exact execRdreg_gen h
  | rxrd idx | txrd idx => exact readBelowCursor_gen h
  | txmod v | txcmd v | txlen v | txflags v | ckclr | ckadd b | ckget => cases h; rfl

/-! ### The two operations that move it -/

/-- GENERATE never clears the flag. -/
theorem execGenerate_gen_of_gen {n : Half} {s t : State} (h : execGenerate n s = .next t)
    (hg : s.gen = true) : t.gen = true := by
  obtain ⟨-, -, rfl⟩ | ⟨-, rfl⟩ := execGenerate_next h
  · rfl
  · exact hg

/-- A GENERATE that sets the flag had a block length within the maximum (R155). -/
theorem execGenerate_sets_gen {n : Half} {s t : State} (h : execGenerate n s = .next t)
    (hs : s.gen = false) (ht : t.gen = true) : n.toNat ≤ s.cfg.blockLenMax.toNat := by
  obtain ⟨-, hn, -⟩ | ⟨-, rfl⟩ := execGenerate_next h
  · exact hn
  · exact absurd (hs.symm.trans ht) Bool.false_ne_true

/-- DESTROY leaves the flag clear, refused or not. -/
theorem execDestroy_gen {s t : State} (h : execDestroy s = .next t) : t.gen = false := by
  obtain ⟨hg, rfl⟩ | ⟨-, rfl⟩ := execDestroy_next h
  · exact hg
  · rfl

/-! ### What a change of the flag says about the operation -/

theorem exec_sets_gen {i : Instr} {s t : State} (h : exec i s = .next t) (hs : s.gen = false)
    (ht : t.gen = true) : ∃ n, i = .generate n ∧ n.toNat ≤ s.cfg.blockLenMax.toNat := by
  by_cases hgen : ∃ n, i = .generate n
  · obtain ⟨n, rfl⟩ := hgen
    exact ⟨n, rfl, execGenerate_sets_gen h hs ht⟩
  · have hkept : t.gen = false := by
      by_cases hdes : i = .destroy
      · subst hdes; exact execDestroy_gen h
      · exact (exec_keeps_gen h (not_exists.mp hgen) hdes).trans hs
    exact absurd (hkept.symm.trans ht) Bool.false_ne_true

theorem exec_clears_gen {i : Instr} {s t : State} (h : exec i s = .next t) (hs : s.gen = true)
    (ht : t.gen = false) : i = .destroy := by
  by_contra hdes
  have hkept : t.gen = true := by
    by_cases hgen : ∃ n, i = .generate n
    · obtain ⟨n, rfl⟩ := hgen
      exact execGenerate_gen_of_gen h hs
    · exact (exec_keeps_gen h (not_exists.mp hgen) hdes).trans hs
  exact Bool.false_ne_true (ht.symm.trans hkept)

end Sys2Proof.Machine

namespace Sys2Proof.Claim

open Sys2Proof.Machine

/-- Settles O37: of the nineteen operations only GENERATE and DESTROY do not keep `gen`; the first
never clears it and sets it only within the maximum, the second never sets it. -/
theorem onlyGenerateSetsAndDestroyClearsGen : Obligations.OnlyGenerateSetsAndDestroyClearsGen :=
  ⟨rfl, fun _ _ _ h => ⟨exec_sets_gen h, exec_clears_gen h⟩⟩

end Sys2Proof.Claim
end

section
/-! SUPPORT. The opcode map of 30_encoding.md R83 read by the decoder: a word decodes exactly when a row
selects it and the operation read from it is well formed, and the opcode bytes keep the rows apart. -/

namespace Sys2Proof

/-- The decoder and the rows of the map: a word decodes to the operation of the row that selects it. -/
theorem decode_eq_ok_iff {w : CmdWord} {i : Instr} :
    decode w = .ok i ↔
      ∃ o : Opcode, o.row.selects w = true ∧ i = o.instr (argField w) ∧ i.wellFormed = true := by
  constructor
  · intro h
    obtain ⟨o, ho, hr, hi, hw⟩ := decode_ok h
    exact ⟨o, (o.row.selects_iff w).mpr ⟨(Opcode.code_of_ofCode ho).symm, hr⟩, hi, hw⟩
  · rintro ⟨o, hs, rfl, hw⟩
    obtain ⟨hop, hr⟩ := (o.row.selects_iff w).mp hs
    simp [decode, hop, hr, Instr.selectorListed_of_wellFormed hw]

/-- R83: two rows never select the same word, because the opcode bytes differ. -/
theorem Opcode.eq_of_selects {o p : Opcode} {w : CmdWord} (ho : o.row.selects w = true)
    (hp : p.row.selects w = true) : o = p := by
  have hcode : o.row.code = p.row.code :=
    ((o.row.selects_iff w).mp ho).1.symm.trans ((p.row.selects_iff w).mp hp).1
  have h := Opcode.ofCode_code o
  rw [hcode, Opcode.ofCode_code] at h
  exact (Option.some.inj h).symm

/-- A field that lies in `arg` is the same field of the word (R80). -/
theorem extractLsb'_argField (w : CmdWord) {first count : Nat} (h : first + count ≤ 32) :
    (argField w).extractLsb' first count = w.extractLsb' first count :=
  BitVec.extractLsb'_extractLsb'_of_le h

end Sys2Proof

namespace Sys2Proof.Claim

/-- A row of the map as R83 prints it: mnemonic, `match`, `mask`. -/
def printedLine (r : OpRow) : String × CmdWord × CmdWord := (r.mnemonic, r.pattern, r.mask)

/-- The columns computed from `Opcode.row` are the printed ones. -/
theorem opcodeMap_printed : opcodeMap.map printedLine = printedMap := by decide

theorem mem_printedMap_iff (r : String × CmdWord × CmdWord) :
    r ∈ printedMap ↔ ∃ o : Opcode, printedLine o.row = r := by
  simp [← opcodeMap_printed, opcodeMap]

theorem listedSelectors_printed : listedSelectors = printedSelectors := by decide

/-- R83: a printed line selects a word as its row does. -/
theorem printedLine_selects_iff (r : OpRow) (w : CmdWord) :
    w &&& (printedLine r).2.2 = (printedLine r).2.1 ↔ r.selects w = true :=
  beq_iff_eq.symm

/-- The only operation that is not always well formed is RDREG's, and its selector is the low byte. -/
theorem wellFormed_instr_iff (o : Opcode) (w : CmdWord) :
    (o.instr (argField w)).wellFormed = true ↔
      (o.row.mnemonic = "RDREG" → w.extractLsb' 0 8 ∈ printedSelectors) := by
  cases o with
  | rdreg =>
    simp [Opcode.instr, Instr.wellFormed, Opcode.row, listedSelectors_printed, extractLsb'_argField]
  | _ => simp [Opcode.instr, Instr.wellFormed, Opcode.row]

/-- A word decodes exactly when a printed line selects it and, for RDREG, the selector is printed. -/
theorem decodes_iff_printed (w : CmdWord) :
    (∃ i, decode w = .ok i) ↔
      ∃ r ∈ printedMap, w &&& r.2.2 = r.2.1 ∧
        (r.1 = "RDREG" → w.extractLsb' 0 8 ∈ printedSelectors) := by
  constructor
  · rintro ⟨i, h⟩
    obtain ⟨o, hs, rfl, hw⟩ := decode_eq_ok_iff.mp h
    exact ⟨printedLine o.row, (mem_printedMap_iff _).mpr ⟨o, rfl⟩,
      (printedLine_selects_iff _ w).mpr hs, (wellFormed_instr_iff o w).mp hw⟩
  · rintro ⟨r, hr, hs, hsel⟩
    obtain ⟨o, rfl⟩ := (mem_printedMap_iff r).mp hr
    exact ⟨_, decode_eq_ok_iff.mpr
      ⟨o, (printedLine_selects_iff _ w).mp hs, rfl, (wellFormed_instr_iff o w).mpr hsel⟩⟩

/-- The operation a word decodes to carries the mnemonic of the line that selects it. -/
theorem decode_printed {w : CmdWord} {i : Instr} (h : decode w = .ok i) :
    ∃ r ∈ printedMap, w &&& r.2.2 = r.2.1 ∧ r.1 = i.mnemonic := by
  obtain ⟨o, hs, rfl, -⟩ := decode_eq_ok_iff.mp h
  refine ⟨printedLine o.row, (mem_printedMap_iff _).mpr ⟨o, rfl⟩,
    (printedLine_selects_iff _ w).mpr hs, ?_⟩
  rw [Instr.mnemonic, Opcode.opcode_instr]
  rfl

/-- At most one printed line selects a word. -/
theorem printed_disjoint {w : CmdWord} {r q : String × CmdWord × CmdWord} (hr : r ∈ printedMap)
    (hq : q ∈ printedMap) (hwr : w &&& r.2.2 = r.2.1) (hwq : w &&& q.2.2 = q.2.1) : r = q := by
  obtain ⟨o, rfl⟩ := (mem_printedMap_iff r).mp hr
  obtain ⟨p, rfl⟩ := (mem_printedMap_iff q).mp hq
  rw [Opcode.eq_of_selects ((printedLine_selects_iff _ w).mp hwr) ((printedLine_selects_iff _ w).mp hwq)]

/-- Settles O4: the printed columns are those of the table, the decoder goes by its rows, and the
opcode bytes keep them apart. -/
theorem decodeAgreesWithOpcodeMap : Obligations.DecodeAgreesWithOpcodeMap :=
  ⟨opcodeMap_printed, decodes_iff_printed, fun _ _ => decode_printed,
    fun _ _ hr _ hq => printed_disjoint hr hq⟩

end Sys2Proof.Claim
end

section
/-! SUPPORT. The operand fields of a word that decodes (30_encoding.md R81): the bits of `arg` above those
the shape uses are zero, and the operands are read below. -/

namespace Sys2Proof

/-- When `arg` is below `2 ^ n`, its bits from `n` on are zero. -/
theorem extractLsb'_eq_zero_of_argField_lt {w : CmdWord} {n : Nat}
    (h : (argField w).toNat < 2 ^ n) (hn : n ≤ 32) : w.extractLsb' n (32 - n) = 0 := by
  rw [← extractLsb'_argField w (by omega)]
  apply BitVec.eq_of_toNat_eq
  rw [BitVec.extractLsb'_toNat, Nat.shiftRight_eq_div_pow, Nat.div_eq_of_lt h]
  simp

/-- The must-be-zero bits of a word that decodes are zero, and its operands are read from `arg`. -/
theorem decode_shape {w : CmdWord} {i : Instr} (h : decode w = .ok i) :
    ∃ o : Opcode, i = o.instr (argField w) ∧
      w.extractLsb' o.row.shape.width (32 - o.row.shape.width) = 0 := by
  obtain ⟨o, -, hr, hi, -⟩ := decode_ok h
  refine ⟨o, hi, extractLsb'_eq_zero_of_argField_lt ((Shape.reserved_and_iff _ _).mp hr) ?_⟩
  cases o.row.shape <;> decide

end Sys2Proof

namespace Sys2Proof.Claim

/-- Settles O5: by the shape of the opcode, whose width says where the must-be-zero bits begin. -/
theorem operandFieldsOfEachShape : Obligations.OperandFieldsOfEachShape := by
  intro w i h
  obtain ⟨o, rfl, hz⟩ := decode_shape h
  have field {first count : Nat} (hle : first + count ≤ 32) := extractLsb'_argField w hle
  cases o with
  | destroy | flushtx | flushrx | flushboth | parse | construct | ckclr | ckget => exact hz
  | rxbyte | txmod | txcmd | ckadd | rdreg => exact ⟨field (by decide), hz⟩
  | generate | txlen | rxrd | txrd => exact ⟨field (by decide), hz⟩
  | txflags => rfl
  | txpay => exact ⟨field (by decide), field (by decide), hz⟩

end Sys2Proof.Claim
end

section
/-! SUPPORT. The fields of an encoded frame (30_encoding.md R70 to R75): a frame is a header of five bytes,
the payload and a trailer of seven, and each part is read at its own offset. -/

namespace Sys2Proof.Machine

/-- The five bytes before the payload (R70). -/
def frameHeader (m c : Byte) (p : List Byte) : List Byte :=
  [symStart, m, c, hi8 (lengthField p), lo8 (lengthField p)]

/-- The seven bytes after the payload (R70). -/
def frameTrailer (m c : Byte) (p : List Byte) (f : Word) : List Byte :=
  [byte3 f, byte2 f, byte1 f, byte0 f,
    hi8 (checksum16 (frameBody m c p f)), lo8 (checksum16 (frameBody m c p f)), symEnd]

theorem frameEncode_eq (m c : Byte) (p : List Byte) (f : Word) :
    frameEncode m c p f = frameHeader m c p ++ (p ++ frameTrailer m c p f) := by
  simp [frameEncode, frameBody, frameHeader, frameTrailer]

/-- Bytes 0 to 4 of a frame are its header. -/
theorem frameEncode_getD_header (m c : Byte) (p : List Byte) (f : Word) {k : Nat} (hk : k < 5) :
    (frameEncode m c p f).getD k 0 = (frameHeader m c p).getD k 0 := by
  rw [frameEncode_eq, List.getD_append _ _ _ _ hk]

/-- The bytes from `5 + L` on are the trailer. -/
theorem frameEncode_getD_trailer (m c : Byte) (p : List Byte) (f : Word) (k : Nat) :
    (frameEncode m c p f).getD (5 + k + p.length) 0 = (frameTrailer m c p f).getD k 0 := by
  have hlen : (frameHeader m c p ++ p).length = 5 + p.length := by simp [frameHeader]; omega
  rw [frameEncode_eq, ← List.append_assoc, List.getD_append_right _ _ _ _ (by omega), hlen,
    show 5 + k + p.length - (5 + p.length) = k by omega]

/-- The payload stands from byte 5 on. -/
theorem frameEncode_payload (m c : Byte) (p : List Byte) (f : Word) :
    ((frameEncode m c p f).drop 5).take p.length = p := by
  rw [frameEncode_eq, List.drop_left' (l₁ := frameHeader m c p) (i := 5) rfl, List.take_left]

/-- R72: the checksum covers bytes 1 to `8 + L`. -/
theorem frameEncode_covered (m c : Byte) (p : List Byte) (f : Word) :
    ((frameEncode m c p f).drop 1).take (8 + p.length) = frameBody m c p f := by
  rw [frameEncode, List.append_assoc, List.append_assoc,
    List.drop_left' (l₁ := [symStart]) (i := 1) rfl, List.take_left' (frameBody_length m c p f)]

theorem lengthField_toNat {p : List Byte} (h : p.length ≤ 65535) :
    (lengthField p).toNat = p.length := by
  rw [lengthField, BitVec.toNat_ofNat, Nat.mod_eq_of_lt (by omega)]

/-- The number of two bytes is the half they were split from (00_scope.md R11). -/
theorem hi8_lo8_toNat (v : Half) : 256 * (hi8 v).toNat + (lo8 v).toNat = v.toNat := by
  rw [Nat.mul_comm, ← be16_toNat, be16_hi8_lo8]

/-- The number of four bytes is the word they were split from (00_scope.md R11). -/
theorem word_bytes_toNat (v : Word) :
    2 ^ 24 * (byte3 v).toNat + 2 ^ 16 * (byte2 v).toNat + 2 ^ 8 * (byte1 v).toNat + (byte0 v).toNat =
      v.toNat := by
  rw [Nat.mul_comm (2 ^ 24), Nat.mul_comm (2 ^ 16), Nat.mul_comm (2 ^ 8), ← be32_toNat, be32_bytes]

end Sys2Proof.Machine

namespace Sys2Proof.Claim

open Sys2Proof.Machine

/-- The byte sum is the sum of the numbers, carries beyond 16 bits discarded (40_checksum.md R100). -/
theorem byteSum_toNat (bytes : List Byte) : (byteSum bytes).toNat = byteTotal bytes % 65536 := by
  induction bytes with
  | nil => rfl
  | cons b bytes ih =>
    have hb := b.isLt
    rw [byteSum_cons, BitVec.toNat_add, ih, BitVec.toNat_setWidth]
    simp only [byteTotal, List.map_cons, List.sum_cons]
    omega

theorem checksum16_toNat (bytes : List Byte) :
    (checksum16 bytes).toNat = 65535 - byteTotal bytes % 65536 := by
  have hle : byteSum bytes ≤ 0xFFFF#16 := Nat.le_of_lt_succ (byteSum bytes).isLt
  rw [← byteSum_toNat, checksum16, BitVec.toNat_sub_of_le hle]
  rfl

/-- Settles O21: header, payload and trailer at their offsets, and the numbers of their bytes. -/
theorem frameFieldOffsets : Obligations.FrameFieldOffsets := by
  intro m c p f hp fr l
  have header {k : Nat} (hk : k < 5) := frameEncode_getD_header m c p f hk
  have trailer := frameEncode_getD_trailer m c p f
  refine ⟨frameEncode_length m c p f, header (by decide), header (by decide), header (by decide),
    ?_, frameEncode_payload m c p f, ?_, ?_, trailer 6⟩
  · rw [num, num, header (by decide), header (by decide)]
    exact (hi8_lo8_toNat _).trans (lengthField_toNat hp)
  · rw [num, num, num, num, trailer 0, trailer 1, trailer 2, trailer 3]
    exact word_bytes_toNat f
  · rw [num, num, trailer 4, trailer 5, frameEncode_covered, ← checksum16_toNat]
    exact hi8_lo8_toNat _

end Sys2Proof.Claim
end

section
/-! SUPPORT. What each operation hands back (30_encoding.md R82). -/

namespace Sys2Proof.Claim

open Sys2Proof.Machine

/-- What an operation can leave in the response port: a mask alone, a value, the completion signal, or
no response but IllegalCommand. -/
inductive ResponseForm : Instr → State → Prop where
  | mask {i : Instr} {t : State} (err : Word) (h : handsBack t err false 0) : ResponseForm i t
  | value {i : Instr} {t : State} (data : Word) (hi : returnsData i = true)
      (h : handsBack t 0 false data) : ResponseForm i t
  | complete {b : Byte} {t : State} (h : handsBack t 0 true 0) : ResponseForm (.rxbyte b) t
  | illegal {i : Instr} {t : State} (w : CmdWord) (h : t.result = some (.illegalCommand w)) :
      ResponseForm i t

theorem execRxbyte_responseForm {b : Byte} {s t : State} (h : execRxbyte b s = .next t) :
    ResponseForm (.rxbyte b) t := by
  obtain ⟨k, -, rfl⟩ | ⟨a, done, -, -, -, rfl⟩ := execRxbyte_next h
  · exact .mask _ rfl
  · cases done with
    | false => exact .mask _ rfl
    | true => exact .complete rfl

theorem execRdreg_responseForm {sel : Byte} {s t : State} (h : execRdreg sel s = .next t) :
    ResponseForm (.rdreg sel) t := by
  obtain ⟨-, rfl⟩ | ⟨r, v, -, -, rfl⟩ := execRdreg_next h
  · exact .illegal _ rfl
  · exact .value v rfl rfl

theorem readBelowCursor_responseForm {i : Instr} {d : Dir} {idx : Half} {s t : State}
    (hi : returnsData i = true) (h : readBelowCursor d idx s = .next t) : ResponseForm i t := by
  obtain ⟨-, rfl⟩ | ⟨-, -, -, rfl⟩ := readBelowCursor_next h
  · exact .mask _ rfl
  · exact .value _ hi rfl

/-- What is handed back, by operation. -/
theorem exec_responseForm {i : Instr} {s t : State} (h : exec i s = .next t) : ResponseForm i t := by
  cases i with
  | rxbyte b => exact execRxbyte_responseForm h
  | rdreg sel => exact execRdreg_responseForm h
  | rxrd idx | txrd idx => exact readBelowCursor_responseForm rfl h
  | ckget => cases h; exact .value _ rfl rfl
  | generate n => obtain ⟨-, -, rfl⟩ | ⟨-, rfl⟩ := execGenerate_next h <;> exact .mask _ rfl
  | destroy => obtain ⟨-, rfl⟩ | ⟨-, rfl⟩ := execDestroy_next h <;> exact .mask _ rfl
  | flushtx => obtain ⟨-, rfl⟩ | ⟨-, rfl⟩ := execFlushtx_next h <;> exact .mask _ rfl
  | flushrx => obtain ⟨-, rfl⟩ | ⟨-, rfl⟩ := execFlushrx_next h <;> exact .mask _ rfl
  | flushboth => obtain ⟨-, rfl⟩ | ⟨-, rfl⟩ := execFlushboth_next h <;> exact .mask _ rfl
  | txpay idx b => obtain ⟨-, rfl⟩ | ⟨-, -, rfl⟩ := execTxpay_next h <;> exact .mask _ rfl
  | construct => obtain ⟨-, rfl⟩ | ⟨-, u, -, rfl⟩ := execConstruct_next h <;> exact .mask _ rfl
  | parse =>
    obtain ⟨-, rfl⟩ | ⟨-, -, rfl⟩ := execParse_next h <;>
      exact .mask _ (congrArg State.result (recordParse_eq _ _))
  | txmod v | txcmd v | txlen v | txflags v | ckclr | ckadd b => cases h; exact .mask _ rfl

/-- Settles O44: by the forms of `ResponseForm`; only `complete` sets the signal, only `value` carries data,
and both have the empty mask. -/
theorem shapeOfEveryResponse : Obligations.ShapeOfEveryResponse := by
  intro i s t r h hr
  cases exec_responseForm h with
  | mask err hm => cases hr.symm.trans hm; exact ⟨by simp, by simp⟩
  | value data hi hv => cases hr.symm.trans hv; exact ⟨by simp, fun _ => ⟨hi, rfl⟩⟩
  | complete hc => cases hr.symm.trans hc; exact ⟨fun _ => ⟨⟨_, rfl⟩, rfl⟩, by simp⟩
  | illegal w hw => cases hr.symm.trans hw

end Sys2Proof.Claim
end

section
/-! SUPPORT. The Checksum Unit (40_checksum.md): the function of R100 in numbers, and what each operation of
the streaming port does to the accumulator and hands back. -/

namespace Sys2Proof.Machine

/-- Adding a byte to the accumulator is addition `mod 0x10000` (R106). -/
theorem half_add_byte (k : Half) (b : Byte) :
    k + b.setWidth 16 = BitVec.ofNat 16 ((k.toNat + b.toNat) % 65536) := by
  apply BitVec.eq_of_toNat_eq
  simp [BitVec.toNat_add]

/-- The complement of a half never wraps, so it extends to a word as a number (R107). -/
theorem half_complement_setWidth (k : Half) :
    (0xFFFF#16 - k).setWidth 32 = BitVec.ofNat 32 (65535 - k.toNat) := by
  have hle : k ≤ 0xFFFF#16 := Nat.le_of_lt_succ k.isLt
  rw [← BitVec.ofNat_toNat, BitVec.toNat_sub_of_le hle]
  rfl

theorem exec_ckclr (s : State) :
    exec .ckclr s = .next (respond errSuccess false 0 { s with ck := 0 }) := rfl

theorem exec_ckadd (b : Byte) (s : State) :
    exec (.ckadd b) s = .next (respond errSuccess false 0 { s with ck := s.ck + b.setWidth 16 }) := rfl

theorem exec_ckget (s : State) :
    exec .ckget s = .next (respond errSuccess false ((0xFFFF#16 - s.ck).setWidth 32) s) := rfl

end Sys2Proof.Machine

namespace Sys2Proof.Claim

open Sys2Proof.Machine

/-- Settles O11: the byte sum is the unbounded sum `mod 65536`, and its complement does not wrap. -/
theorem checksumIsComplementOfTheSum : Obligations.ChecksumIsComplementOfTheSum :=
  checksum16_toNat

/-- Settles O14: what each port operation does, with the sum and the complement read as numbers. -/
theorem checksumPortOperations : Obligations.ChecksumPortOperations := by
  refine ⟨fun s => ⟨rfl, exec_ckclr s⟩, fun s b => ⟨rfl, ?_⟩, fun s => ⟨rfl, ?_⟩⟩
  · rw [exec_ckadd, half_add_byte]; rfl
  · rw [exec_ckget, half_complement_setWidth]; rfl

end Sys2Proof.Claim
end

section
/-! SUPPORT. Loading the send Packet (41_encode.md R110 to R114): what each of TXMOD, TXCMD, TXLEN, TXFLAGS
and TXPAY does. -/

namespace Sys2Proof.Machine

theorem exec_txmod (v : Byte) (s : State) :
    exec (.txmod v) s = .next (respond errSuccess false 0 { s with txp := { s.txp with moduleId := v } }) :=
  rfl

theorem exec_txcmd (v : Byte) (s : State) :
    exec (.txcmd v) s = .next (respond errSuccess false 0 { s with txp := { s.txp with cmd := v } }) := rfl

theorem exec_txlen (v : Half) (s : State) :
    exec (.txlen v) s =
      .next (respond errSuccess false 0 { s with txp := { s.txp with payloadLen := v } }) := rfl

theorem exec_txflags (v : Word) (s : State) :
    exec (.txflags v) s = .next (respond errSuccess false 0 { s with txp := { s.txp with flags := v } }) :=
  rfl

/-- R114: TXPAY outside the storage is refused. -/
theorem exec_txpay_of_outside {s : State} {idx : Half}
    (h : s.gen = false ∨ s.tx.len.toNat ≤ 5 + idx.toNat) (b : Byte) :
    exec (.txpay idx b) s = .next (respond ErrKind.memory.mask false 0 s) := by
  show needStorage s _ = _
  cases hg : s.gen with
  | false => exact needStorage_false hg _
  | true =>
    rw [needStorage_true hg]
    exact if_pos (h.resolve_left (by simp [hg]))

/-- R114: TXPAY within the storage writes the one cell. -/
theorem exec_txpay_of_inside {s : State} {idx : Half} (hg : s.gen = true)
    (h : 5 + idx.toNat < s.tx.len.toNat) (b : Byte) :
    exec (.txpay idx b) s = .next (respond errSuccess false 0 (s.poke .tx (5 + idx.toNat) b)) := by
  show needStorage s _ = _
  have hin : ¬ s.tx.len.toNat ≤ lenHeader + idx.toNat := Nat.not_le.mpr h
  have hw : memWrite s .tx (lenHeader + idx.toNat) b = .ok (s.poke .tx (5 + idx.toNat) b) :=
    memWrite_of_lt (d := .tx) h b
  rw [needStorage_true hg, if_neg hin, hw]
  rfl

/-- The operand of TXPAY as a number (30_encoding.md R81). -/
theorem idxByte_eq_ofNat (idx : Half) (b : Byte) :
    (0#8 ++ idx ++ b : Word) = BitVec.ofNat 32 (256 * idx.toNat + b.toNat) := by
  rw [Nat.mul_comm, ← idxByte_toNat, BitVec.ofNat_toNat, BitVec.setWidth_eq]

/-- A response moves no cell. -/
@[simp] theorem cell_respond (e : Word) (c : Bool) (v : Word) (s : State) (d : Dir) (i : Nat) :
    (respond e c v s).cell d i = s.cell d i := by
  cases d <;> rfl

end Sys2Proof.Machine

namespace Sys2Proof.Claim

open Sys2Proof.Machine

/-- Settles O17: each of the four writes its own field, in any state. -/
theorem sendPacketRegisterWrites : Obligations.SendPacketRegisterWrites :=
  ⟨fun s v => ⟨rfl, exec_txmod v s⟩, fun s v => ⟨rfl, exec_txcmd v s⟩,
    fun s v => ⟨rfl, exec_txlen v s⟩, fun s v => ⟨rfl, exec_txflags v s⟩⟩

/-- Settles O18: the two refusals are one case of R114, the other case is the write of one cell. -/
theorem txpayStagesOneByte : Obligations.TxpayStagesOneByte := by
  intro s idx b
  refine ⟨?_, fun hg => exec_txpay_of_outside (.inl hg) b, fun hl => exec_txpay_of_outside (.inr hl) b,
    fun hg hl => ⟨_, exec_txpay_of_inside hg hl b, rfl, fun i => ?_⟩⟩
  · exact congrArg (cmdWord 0x24) (idxByte_eq_ofNat idx b)
  · simp [cell_poke]

end Sys2Proof.Claim
end

section
/-! SUPPORT. The checks of CONSTRUCT (41_encode.md R115 to R117): the mask they OR together, in numbers, and
what a CONSTRUCT with a failing check does. -/

namespace Sys2Proof.Machine

/-- The mask of R116, its bits as the numbers of R78. -/
theorem constructErr_eq (s : State) :
    constructErr s =
      (if s.cfg.lenMaxPayload.toNat < s.txp.payloadLen.toNat then 0x04 else 0) |||
      (if s.gen = false ∨ s.tx.len.toNat < 12 + s.txp.payloadLen.toNat then 0x01 else 0) |||
      (if s.txp.moduleId ∉ s.cfg.validModules then 0x08 else 0) := by
  have hlength : lengthExceeded s = true ↔ s.cfg.lenMaxPayload.toNat < s.txp.payloadLen.toNat :=
    decide_eq_true_iff
  have hmemory : frameExceeds s = true ↔
      s.gen = false ∨ s.tx.len.toNat < 12 + s.txp.payloadLen.toNat := by
    rw [frameExceeds, Bool.or_eq_true, Bool.not_eq_true', decide_eq_true_iff, lenOverhead]
  have hmodule : moduleUnknown s = true ↔ s.txp.moduleId ∉ s.cfg.validModules := by
    simp [moduleUnknown, moduleValid]
  rw [constructErr, errWhen_eq, errWhen_eq, errWhen_eq, if_congr hlength rfl rfl,
    if_congr hmemory rfl rfl, if_congr hmodule rfl rfl]
  rfl

/-- R26: where a frame without payload fits, the largest payload is twelve bytes less than the buffer. -/
theorem payloadMax_toNat {s : State} {d : Dir} (h : 12 ≤ (s.buffer d).len.toNat) :
    (payloadMax s d).toNat = (s.buffer d).len.toNat - 12 := by
  rw [payloadMax, if_pos (show lenOverhead ≤ _ from h)]
  exact BitVec.toNat_sub_of_le (show (12#16).toNat ≤ _ from h)

/-- The capacity test of R116 by the derived register `payloadMax`. -/
theorem capacity_lt_iff_payloadMax_lt {s : State} (h : 12 ≤ s.tx.len.toNat) :
    s.tx.len.toNat < 12 + s.txp.payloadLen.toNat ↔
      (payloadMax s .tx).toNat < s.txp.payloadLen.toNat := by
  rw [payloadMax_toNat (d := .tx) h, buffer_tx]
  omega

/-- R117: a CONSTRUCT with a failing check answers the mask and writes `txp.error` only. -/
theorem exec_construct_of_err {s : State} (h : constructErr s ≠ 0) :
    exec .construct s = .next (respond (constructErr s) false 0 (withTxError s)) := by
  have hc : constructFails s = true := by
    simpa using mt (constructErr_eq_zero_iff s).mpr h
  exact execConstruct_fails hc

end Sys2Proof.Machine

namespace Sys2Proof.Claim

open Sys2Proof.Machine

/-- Settles O19: the mask in numbers, the capacity test by `payloadMax`, and the one register a failing
CONSTRUCT writes. -/
theorem constructChecksBeforeItWrites : Obligations.ConstructChecksBeforeItWrites := by
  intro s l err
  have herr : constructErr s = err := constructErr_eq s
  refine ⟨rfl, capacity_lt_iff_payloadMax_lt, fun hne => ?_⟩
  rw [← herr] at hne ⊢
  exact exec_construct_of_err hne

end Sys2Proof.Claim
end

section
/-! SUPPORT. The frame CONSTRUCT leaves in the send buffer (41_encode.md R118): the parts it writes make a
frame with the staged payload, and writing a frame that is already there changes nothing. -/

namespace Sys2Proof.Machine

/-! ### Windows, part by part -/

theorem window_append (s : State) (d : Dir) (first m n : Nat) :
    s.window d first (m + n) = s.window d first m ++ s.window d (first + m) n := by
  simp [State.window, List.range_add, Nat.add_assoc, Function.comp_def]

theorem window_cons (s : State) (d : Dir) (first n : Nat) :
    s.window d first (n + 1) = s.cell d first :: s.window d (first + 1) n := by
  rw [Nat.add_comm, window_append]
  rfl

/-- A window holds `bytes` when each of its cells does. -/
theorem window_eq_of_cells {s : State} {d : Dir} {first n : Nat} {bytes : List Byte}
    (hn : bytes.length = n) (h : ∀ k, k < n → s.cell d (first + k) = bytes.getD k 0) :
    s.window d first n = bytes := by
  subst hn
  refine List.ext_getElem (window_length s d first _) fun k _ hk => ?_
  rw [window_getElem s d first _ k hk, h k hk, List.getD_eq_getElem _ _ hk]

/-- Equal windows are equal in each cell. -/
theorem cell_of_window_eq {s t : State} {d : Dir} {first count k : Nat}
    (h : t.window d first count = s.window d first count) (hk : k < count) :
    t.cell d (first + k) = s.cell d (first + k) :=
  List.map_inj_left.mp h k (List.mem_range.mpr hk)

/-- A buffer whose parts are those of a frame, the checksum taken over the bytes R72 names, holds the
frame. -/
theorem window_eq_frameEncode {u : State} {d : Dir} {m c : Byte} {p : List Byte} {f : Word} {l : Nat}
    (hheader : u.window d 0 5 = frameHeader m c p) (hpayload : u.window d 5 l = p)
    (hflags : u.window d (5 + l) 4 = [byte3 f, byte2 f, byte1 f, byte0 f])
    (htrailer : u.window d (9 + l) 3 =
      [hi8 (checksum16 (u.window d 1 (8 + l))), lo8 (checksum16 (u.window d 1 (8 + l))), symEnd]) :
    u.window d 0 (12 + l) = frameEncode m c p f := by
  have hfields : u.window d 1 4 = (frameHeader m c p).tail :=
    List.tail_eq_of_cons_eq ((window_cons u d 0 4).symm.trans hheader)
  have hcovered : u.window d 1 (8 + l) = frameBody m c p f := by
    rw [show 8 + l = 4 + (l + 4) by omega, window_append, window_append, hfields, hpayload, hflags]
    simp [frameHeader, frameBody]
  rw [hcovered] at htrailer
  rw [show 12 + l = 5 + (l + (4 + 3)) by omega, window_append, window_append, window_append, hheader,
    Nat.zero_add, hpayload, hflags, show 5 + l + 4 = 9 + l by omega, htrailer, frameEncode_eq]
  rfl

/-! ### The writes of CONSTRUCT -/

section
variable {s u : State} (hfit : 12 + s.txp.payloadLen.toNat ≤ s.tx.len.toNat) (hu : writeFrame s = .ok u)
include hfit hu

/-- R115: the payload is already in place and is not written. -/
theorem writeFrame_payload :
    u.window .tx 5 s.txp.payloadLen.toNat = s.window .tx 5 s.txp.payloadLen.toNat := by
  obtain ⟨v, hv, -, hcell⟩ := writeFrame_of_le hfit
  cases hu.symm.trans hv
  refine window_congr fun k hk => ?_
  rw [hcell, if_neg (by omega), if_pos (by omega)]

/-- R118: the writes of CONSTRUCT complete the staged payload to a frame. -/
theorem writeFrame_window :
    u.window .tx 0 (12 + s.txp.payloadLen.toNat) =
      frameEncode s.txp.moduleId s.txp.cmd (s.window .tx 5 s.txp.payloadLen.toNat) s.txp.flags := by
  obtain ⟨v, hv, -, hcell⟩ := writeFrame_of_le hfit
  cases hu.symm.trans hv
  have hfield : lengthField (s.window .tx 5 s.txp.payloadLen.toNat) = s.txp.payloadLen := by
    simp [lengthField]
  refine window_eq_frameEncode ?header (writeFrame_payload hfit hu) ?flags ?trailer
  case header =>
    refine window_eq_of_cells rfl fun k hk => ?_
    rw [Nat.zero_add, hcell, if_pos hk, frameHeader, hfield]
  case flags =>
    refine window_eq_of_cells rfl fun k hk => ?_
    rw [hcell, if_neg (by omega), if_neg (by omega), if_pos (by omega), Nat.add_sub_cancel_left]
  case trailer =>
    refine window_eq_of_cells rfl fun k hk => ?_
    rw [hcell, if_neg (by omega), if_neg (by omega), if_neg (by omega), if_pos (by omega),
      Nat.add_sub_cancel_left]

/-- R118: the cells behind the frame are not written. -/
theorem writeFrame_cell_above {i : Nat} (hi : 12 + s.txp.payloadLen.toNat ≤ i) :
    u.cell .tx i = s.cell .tx i := by
  obtain ⟨v, hv, -, hcell⟩ := writeFrame_of_le hfit
  cases hu.symm.trans hv
  rw [hcell, if_neg (by omega), if_neg (by omega), if_neg (by omega), if_neg (by omega)]

end

/-- A run of writes after which every cell reads as before, and which wrote no new cell, changed nothing. -/
theorem Rewritten.eq_self {s t : State} {d : Dir} (h : Rewritten s t d)
    (hwf : Memory.wf (s.buffer d).mem) (hcell : ∀ i, t.cell d i = s.cell d i)
    (hwritten : ∀ i, ((t.buffer d).mem.lookup i).isSome = ((s.buffer d).mem.lookup i).isSome) :
    t = s := by
  have hmem : (t.buffer d).mem = (s.buffer d).mem := by
    refine Memory.eq_of_lookup_eq (h.wf hwf) hwf fun i => ?_
    cases hs : (s.buffer d).mem.lookup i with
    | none => simpa [hs] using hwritten i
    | some b =>
      obtain ⟨b', ht⟩ := Option.isSome_iff_exists.mp ((hwritten i).trans (hs ▸ rfl))
      rw [ht, ← cell_of_lookup ht, hcell, cell_of_lookup hs]
  rw [h.same, hmem]
  cases d <;> rfl

/-- Writing a frame that is already there changes nothing. -/
theorem writeFrame_of_frame {t : State} (hfit : 12 + t.txp.payloadLen.toNat ≤ t.tx.len.toNat)
    (hwf : Memory.wf t.tx.mem)
    (hwritten : ∀ i, i < 12 + t.txp.payloadLen.toNat → (i < 5 ∨ 5 + t.txp.payloadLen.toNat ≤ i) →
      (t.tx.mem.lookup i).isSome = true)
    (hframe : t.window .tx 0 (12 + t.txp.payloadLen.toNat) =
      frameEncode t.txp.moduleId t.txp.cmd (t.window .tx 5 t.txp.payloadLen.toNat) t.txp.flags) :
    writeFrame t = .ok t := by
  obtain ⟨v, hv, hr, -⟩ := writeFrame_of_le hfit
  have hcell (i : Nat) : v.cell .tx i = t.cell .tx i := by
    by_cases hi : i < 12 + t.txp.payloadLen.toNat
    · simpa using cell_of_window_eq ((writeFrame_window hfit hv).trans hframe.symm) hi
    · exact writeFrame_cell_above hfit hv (Nat.not_lt.mp hi)
  have hsome (i : Nat) : (v.tx.mem.lookup i).isSome = (t.tx.mem.lookup i).isSome := by
    rw [writeFrame_isSome hv, Bool.or_eq_right_iff_imp, decide_eq_true_iff]
    exact fun h => hwritten i h.1 h.2
  rw [hv, hr.eq_self hwf hcell hsome]

/-! ### CONSTRUCT -/

/-- The state a CONSTRUCT whose checks pass ends in, by the array its writes leave. -/
def framed (s : State) (mem : Memory) : State :=
  respond errSuccess false 0
    { s with tx := ⟨s.tx.len, BitVec.ofNat 16 (12 + s.txp.payloadLen.toNat), mem⟩,
             txp := { s.txp with error := 0 } }

/-- R118: a CONSTRUCT whose checks pass goes on with success and ends in `framed`. -/
theorem exec_construct_of_ready {s : State} (hc : constructFails s = false) :
    ∃ u, writeFrame (withTxError s) = .ok u ∧ exec .construct s = .next (framed s u.tx.mem) := by
  obtain ⟨-, -, hfit, -⟩ := (constructFails_eq_false_iff s).mp hc
  obtain ⟨u, hu, hr, -⟩ := writeFrame_of_le (s := withTxError s) hfit
  have hsame : constructed s u = framed s u.tx.mem := by
    have herr := (constructErr_eq_zero_iff s).mpr hc
    rw [constructed, hr.same, withTxError, herr]
    rfl
  exact ⟨u, hu, hsame ▸ execConstruct_of_writeFrame hc hu⟩

section
variable {s u : State} (hc : constructFails s = false) (hu : writeFrame (withTxError s) = .ok u)
include hc hu

/-- The cells a CONSTRUCT leaves are those its writes left. -/
theorem framed_cell (i : Nat) : (framed s u.tx.mem).cell .tx i = u.cell .tx i :=
  cell_congr (s := u) (t := framed s u.tx.mem) rfl (writeFrame_rewritten hc hu).epoch.symm i

/-- R118: after a CONSTRUCT whose checks pass the cells `0 .. 11+L` hold the frame. -/
theorem framed_window :
    (framed s u.tx.mem).window .tx 0 (12 + s.txp.payloadLen.toNat) =
      frameEncode s.txp.moduleId s.txp.cmd (s.window .tx 5 s.txp.payloadLen.toNat) s.txp.flags := by
  obtain ⟨-, -, hfit, -⟩ := (constructFails_eq_false_iff s).mp hc
  exact (window_congr fun k _ => framed_cell hc hu _).trans
    (writeFrame_window (s := withTxError s) hfit hu)

/-- R118: the staged payload stays in place. -/
theorem framed_payload :
    (framed s u.tx.mem).window .tx 5 s.txp.payloadLen.toNat =
      s.window .tx 5 s.txp.payloadLen.toNat := by
  obtain ⟨-, -, hfit, -⟩ := (constructFails_eq_false_iff s).mp hc
  exact (window_congr fun k _ => framed_cell hc hu _).trans
    (writeFrame_payload (s := withTxError s) hfit hu)

/-- R118: the cells behind the frame are not changed. -/
theorem framed_cell_above {i : Nat} (hi : 12 + s.txp.payloadLen.toNat ≤ i) :
    (framed s u.tx.mem).cell .tx i = s.cell .tx i := by
  obtain ⟨-, -, hfit, -⟩ := (constructFails_eq_false_iff s).mp hc
  exact (framed_cell hc hu i).trans (writeFrame_cell_above (s := withTxError s) hfit hu hi)

/-- R118: the frame is already there when CONSTRUCT runs again, so its writes change nothing. -/
theorem writeFrame_framed (hwf : Memory.wf s.tx.mem) :
    writeFrame (framed s u.tx.mem) = .ok (framed s u.tx.mem) := by
  obtain ⟨-, -, hfit, -⟩ := (constructFails_eq_false_iff s).mp hc
  refine writeFrame_of_frame hfit ((writeFrame_rewritten hc hu).wf hwf) (fun i hi hout => ?written) ?frame
  case written =>
    exact (writeFrame_isSome hu i).trans (Bool.or_eq_true_iff.mpr (.inl (decide_eq_true ⟨hi, hout⟩)))
  case frame =>
    exact (framed_window hc hu).trans
      (congrArg (frameEncode _ _ · _) (framed_payload hc hu).symm)

/-- R118: a second CONSTRUCT changes nothing. -/
theorem exec_construct_framed (hwf : Memory.wf s.tx.mem) :
    exec .construct (framed s u.tx.mem) = .next (framed s u.tx.mem) := by
  have hc' : constructFails (framed s u.tx.mem) = false := hc
  have herr : withTxError (framed s u.tx.mem) = framed s u.tx.mem := by
    rw [withTxError, (constructErr_eq_zero_iff _).mpr hc']
    rfl
  obtain ⟨v, hv, hexec⟩ := exec_construct_of_ready hc'
  rw [herr, writeFrame_framed hc hu hwf] at hv
  cases hv
  exact hexec

end

end Sys2Proof.Machine

namespace Sys2Proof.Claim

open Sys2Proof.Machine

/-- Settles O20: the frame, the cells behind it and the repetition are facts about `framed`, the state
CONSTRUCT ends in, which differs from `s` in the named registers only. -/
theorem constructWritesTheFrame : Obligations.ConstructWritesTheFrame := by
  intro s hinv hready
  obtain ⟨⟨hwf, -, -⟩, -, -, -⟩ := hinv
  have hc : constructFails s = false := (constructFails_eq_false_iff s).mpr hready
  obtain ⟨u, hu, hexec⟩ := exec_construct_of_ready hc
  exact ⟨_, hexec, rfl, framed_window hc hu, fun _ => framed_cell_above hc hu,
    exec_construct_framed hc hu hwf⟩

end Sys2Proof.Claim
end

section
/-! SUPPORT. TXPKT (30_encoding.md R94): its operations, run one after the other, build the frame of the
packet. -/

namespace Sys2Proof.Machine

/-! ### Running a list of instructions -/

theorem runInstrs_append_of_next {is js : List Instr} {s t : State} (h : runInstrs is s = .next t) :
    runInstrs (is ++ js) s = runInstrs js t := by
  induction is generalizing s with
  | nil => cases h; rfl
  | cons i is ih =>
    rw [List.cons_append, runInstrs]
    rw [runInstrs] at h
    cases he : exec i s with
    | next u => rw [he] at h; exact ih h
    | fault f => rw [he] at h; cases h
    | refused r => rw [he] at h; cases h

theorem runInstrs_cons_of_next {i : Instr} {is : List Instr} {s t : State} (h : exec i s = .next t) :
    runInstrs (i :: is) s = runInstrs is t := by
  rw [runInstrs, h]

/-! ### Staging a payload -/

/-- Successive TXPAYs stage their bytes from cell `5 + k` on; they change no cell below it, no register and
no other buffer. -/
theorem runInstrs_stagePayload {s : State} {k : Nat} {p : List Byte} (hg : s.gen = true)
    (hfit : 5 + (k + p.length) ≤ s.tx.len.toNat) :
    ∃ t, runInstrs (stagePayload k p) s = .next t ∧
      t = { s with tx := ⟨s.tx.len, s.tx.idx, t.tx.mem⟩, result := t.result } ∧
      t.window .tx (5 + k) p.length = p ∧ ∀ i, i < 5 + k → t.cell .tx i = s.cell .tx i := by
  induction p generalizing s k with
  | nil => exact ⟨s, rfl, rfl, rfl, fun _ _ => rfl⟩
  | cons b p ih =>
    rw [List.length_cons] at hfit
    have hlen := s.tx.len.isLt
    have hk : (BitVec.ofNat 16 k).toNat = k := by
      rw [BitVec.toNat_ofNat, Nat.mod_eq_of_lt (by omega)]
    have hexec := exec_txpay_of_inside (idx := BitVec.ofNat 16 k) hg (by omega) b
    rw [hk] at hexec
    obtain ⟨t, hrun, ht, hwindow, hbelow⟩ :=
      ih (s := respond errSuccess false 0 (s.poke .tx (5 + k) b)) (k := k + 1) hg
        (show 5 + (k + 1 + p.length) ≤ s.tx.len.toNat by omega)
    refine ⟨t, (runInstrs_cons_of_next hexec).trans hrun, ht, ?_, fun i hi => ?_⟩
    · rw [List.length_cons, window_cons, hbelow (5 + k) (by omega), cell_respond, cell_poke,
        if_pos ⟨rfl, rfl⟩, Nat.add_assoc, hwindow]
    · rw [hbelow i (by omega), cell_respond, cell_poke, if_neg (by omega)]

/-! ### The whole packet -/

/-- The state TXMOD, TXCMD and TXLEN leave. -/
def withTxHeader (m c : Byte) (n : Half) (s : State) : State :=
  respond errSuccess false 0 { s with txp := ⟨m, c, n, s.txp.flags, s.txp.error⟩ }

/-- The state TXFLAGS leaves. -/
def withTxFlags (f : Word) (s : State) : State :=
  respond errSuccess false 0 { s with txp := { s.txp with flags := f } }

/-- The operations of TXPKT before CONSTRUCT load the send Packet and stage the payload. -/
theorem runInstrs_txpkt_load {s : State} {m c : Byte} {p : List Byte} {f : Word} (hg : s.gen = true)
    (hfit : 5 + p.length ≤ s.tx.len.toNat) :
    ∃ t, runInstrs (txpkt m c p f) s = runInstrs [.construct] t ∧ t.gen = true ∧ t.cfg = s.cfg ∧
      t.tx.len = s.tx.len ∧ t.txp = ⟨m, c, BitVec.ofNat 16 p.length, f, s.txp.error⟩ ∧
      t.window .tx 5 p.length = p := by
  have hheader : runInstrs [.txmod m, .txcmd c, .txlen (BitVec.ofNat 16 p.length)] s =
      .next (withTxHeader m c (BitVec.ofNat 16 p.length) s) := rfl
  obtain ⟨t, hstage, ht, hwindow, -⟩ :=
    runInstrs_stagePayload (s := withTxHeader m c (BitVec.ofNat 16 p.length) s) (k := 0) (p := p) hg
      (show 5 + (0 + p.length) ≤ s.tx.len.toNat by omega)
  refine ⟨withTxFlags f t, ?run, ?_, ?_, ?_, ?_, ?window⟩
  case run =>
    rw [txpkt, List.append_assoc, runInstrs_append_of_next hheader, runInstrs_append_of_next hstage,
      runInstrs_cons_of_next (exec_txflags f t)]
    rfl
  case window => exact hwindow
  all_goals rw [withTxFlags, ht]
  · exact hg
  · rfl
  · rfl
  · rfl

/-- The operations of TXPKT, on a packet that meets the conditions of CONSTRUCT, leave its frame in the
send buffer. -/
theorem runInstrs_txpkt {s : State} {m c : Byte} {p : List Byte} {f : Word} (hg : s.gen = true)
    (hm : m ∈ s.cfg.validModules) (hmax : p.length ≤ s.cfg.lenMaxPayload.toNat)
    (hfit : 12 + p.length ≤ s.tx.len.toNat) :
    ∃ t, runInstrs (txpkt m c p f) s = .next t ∧ t.tx.idx = BitVec.ofNat 16 (12 + p.length) ∧
      t.window .tx 0 (12 + p.length) = frameEncode m c p f := by
  obtain ⟨q, hrun, hgen, hcfg, hlen, htxp, hstaged⟩ :=
    runInstrs_txpkt_load (m := m) (c := c) (p := p) (f := f) hg (by omega)
  have hl : q.txp.payloadLen.toNat = p.length := by
    have := s.tx.len.isLt
    rw [htxp, BitVec.toNat_ofNat, Nat.mod_eq_of_lt (by omega)]
  have hc : constructFails q = false := (constructFails_eq_false_iff q).mpr
    ⟨hgen, by rwa [hl, hcfg], by rwa [hl, hlen], by rwa [htxp, hcfg]⟩
  obtain ⟨u, hu, hexec⟩ := exec_construct_of_ready hc
  have hframe := framed_window hc hu
  rw [hl, hstaged, htxp] at hframe
  exact ⟨_, hrun.trans (runInstrs_cons_of_next hexec), congrArg (BitVec.ofNat 16 <| 12 + ·) hl, hframe⟩

end Sys2Proof.Machine

namespace Sys2Proof.Claim

open Sys2Proof.Machine

/-- Settles O22: the two packets meet the conditions of CONSTRUCT, and their frames are those the source
prints. -/
theorem workedFramesOfTheSource : Obligations.WorkedFramesOfTheSource := by
  intro s hg hm hmax hlen
  obtain ⟨t, ht, htidx, htframe⟩ := runInstrs_txpkt (c := 0xCC) (p := [1, 3, 5]) (f := 0) hg hm hmax hlen
  obtain ⟨u, hu, huidx, huframe⟩ := runInstrs_txpkt (c := 0xCC) (p := []) (f := 1) hg hm (Nat.zero_le _)
    (Nat.le_trans (by decide) hlen)
  exact ⟨⟨t, ht, htidx, htframe.trans (by decide)⟩, u, hu, huidx, huframe.trans (by decide)⟩

end Sys2Proof.Claim
end

section
/-! SUPPORT. parseFrame (42_decode.md R126) in numbers: the chain of its checks, what passing all of them
means, and one lemma per check that fails. -/

namespace Sys2Proof.Claim

open Sys2Proof.Machine

/-! ### The checks in numbers -/

theorem be16_byteAt_toNat (buf : List Byte) (i j : Nat) :
    (be16 (byteAt buf i) (byteAt buf j)).toNat = 256 * num buf i + num buf j := by
  rw [be16_toNat, Nat.mul_comm]
  rfl

/-- Two bytes of a buffer as a 16-bit field, `payloadLen` among them (R126). -/
theorem be16_byteAt_eq (buf : List Byte) (i j : Nat) :
    be16 (byteAt buf i) (byteAt buf j) = BitVec.ofNat 16 (256 * num buf i + num buf j) := by
  rw [← be16_byteAt_toNat, BitVec.ofNat_toNat, BitVec.setWidth_eq]

theorem be32_byteAt_eq (buf : List Byte) (i j k n : Nat) :
    be32 (byteAt buf i) (byteAt buf j) (byteAt buf k) (byteAt buf n) =
      BitVec.ofNat 32 (2 ^ 24 * num buf i + 2 ^ 16 * num buf j + 2 ^ 8 * num buf k + num buf n) := by
  rw [Nat.mul_comm (2 ^ 24), Nat.mul_comm (2 ^ 16), Nat.mul_comm (2 ^ 8)]
  exact (BitVec.ofNat_toNat 32 _).symm.trans (congrArg (BitVec.ofNat 32) (be32_toNat _ _ _ _))

/-- The registry test of R126 (step 2) is membership. -/
theorem not_moduleValid_iff (cfg : Config) (b : Byte) :
    (!moduleValid cfg b) = true ↔ b ∉ cfg.validModules := by
  simp [moduleValid]

/-- The checksum test of R126 (step 3), by the numbers of R100 and R11. -/
theorem checksum_mismatch_iff (buf : List Byte) (l : Nat) :
    checksum16 (slice buf 1 (8 + l)) ≠ be16 (byteAt buf (9 + l)) (byteAt buf (10 + l)) ↔
      65535 - byteTotal ((buf.drop 1).take (8 + l)) % 65536 ≠
        256 * num buf (9 + l) + num buf (10 + l) := by
  rw [← checksum16_toNat, ← be16_byteAt_toNat, ne_eq, ne_eq, BitVec.toNat_inj, slice]

/-- Settles O23: the two length checks join to one, and each later check is the same test in numbers. -/
theorem validationOrder : Obligations.ValidationOrder := by
  intro cfg buf l
  have hlen : (be16 (byteAt buf 3) (byteAt buf 4)).toNat = l := be16_byteAt_toNat buf 3 4
  have hfield : be16 (byteAt buf 3) (byteAt buf 4) = BitVec.ofNat 16 l := be16_byteAt_eq buf 3 4
  simp only [parseFrame, hlen, be32_byteAt_eq]
  rw [hfield, ite_or, if_congr (not_moduleValid_iff cfg _) rfl rfl,
    if_congr (checksum_mismatch_iff buf l) rfl rfl]
  rfl

/-! ### Passing and failing -/

/-- R126, step 3: the checksum field holds the checksum of the covered bytes. -/
def ChecksumHolds (buf : List Byte) : Prop :=
  65535 - byteTotal ((buf.drop 1).take (8 + frameLen buf)) % 65536 =
    256 * num buf (9 + frameLen buf) + num buf (10 + frameLen buf)

/-- A buffer that passes every check of R126. -/
structure ValidFrame (cfg : Config) (buf : List Byte) : Prop where
  long : 12 + frameLen buf ≤ buf.length
  start : buf.getD 0 0 = 0x01
  module : buf.getD 1 0 ∈ cfg.validModules
  checksum : ChecksumHolds buf
  finish : buf.getD (11 + frameLen buf) 0 = 0xAA

section
variable {cfg : Config} {buf : List Byte}

theorem parseFrame_of_short (h : buf.length < 12 + frameLen buf) :
    parseFrame cfg buf = .error .incomplete :=
  (validationOrder cfg buf).trans (if_pos (.inr h))

/-- With enough bytes, the start symbol is checked first. -/
theorem parseFrame_of_badStart (hlong : 12 + frameLen buf ≤ buf.length) (hbad : buf.getD 0 0 ≠ 0x01) :
    parseFrame cfg buf = .error .startSym :=
  (validationOrder cfg buf).trans ((if_neg (by omega)).trans (if_pos hbad))

/-- The module id is checked second. -/
theorem parseFrame_of_badModule (hlong : 12 + frameLen buf ≤ buf.length) (hstart : buf.getD 0 0 = 0x01)
    (hbad : buf.getD 1 0 ∉ cfg.validModules) : parseFrame cfg buf = .error .module :=
  (validationOrder cfg buf).trans
    ((if_neg (by omega)).trans ((if_neg (not_not.mpr hstart)).trans (if_pos hbad)))

/-- The checksum is checked third. -/
theorem parseFrame_of_badChecksum (hlong : 12 + frameLen buf ≤ buf.length)
    (hstart : buf.getD 0 0 = 0x01) (hmodule : buf.getD 1 0 ∈ cfg.validModules)
    (hbad : ¬ ChecksumHolds buf) : parseFrame cfg buf = .error .checksum :=
  (validationOrder cfg buf).trans
    ((if_neg (by omega)).trans ((if_neg (not_not.mpr hstart)).trans
      ((if_neg (not_not.mpr hmodule)).trans (if_pos hbad))))

/-- The end symbol is checked last. -/
theorem parseFrame_of_badEnd (hlong : 12 + frameLen buf ≤ buf.length)
    (hstart : buf.getD 0 0 = 0x01) (hmodule : buf.getD 1 0 ∈ cfg.validModules)
    (hchecksum : ChecksumHolds buf) (hbad : buf.getD (11 + frameLen buf) 0 ≠ 0xAA) :
    parseFrame cfg buf = .error .endSym :=
  (validationOrder cfg buf).trans
    ((if_neg (by omega)).trans ((if_neg (not_not.mpr hstart)).trans
      ((if_neg (not_not.mpr hmodule)).trans
        ((if_neg (not_not.mpr hchecksum)).trans (if_pos hbad)))))

/-- A frame that parses passes every check: the first that failed would be reported. -/
theorem validFrame_of_ok {r : Fields} (h : parseFrame cfg buf = .ok r) : ValidFrame cfg buf := by
  have hlong : 12 + frameLen buf ≤ buf.length := by
    by_contra hbad
    cases h.symm.trans (parseFrame_of_short (by omega))
  have hstart : buf.getD 0 0 = 0x01 := by
    by_contra hbad
    cases h.symm.trans (parseFrame_of_badStart hlong hbad)
  have hmodule : buf.getD 1 0 ∈ cfg.validModules := by
    by_contra hbad
    cases h.symm.trans (parseFrame_of_badModule hlong hstart hbad)
  have hchecksum : ChecksumHolds buf := by
    by_contra hbad
    cases h.symm.trans (parseFrame_of_badChecksum hlong hstart hmodule hbad)
  have hfinish : buf.getD (11 + frameLen buf) 0 = 0xAA := by
    by_contra hbad
    cases h.symm.trans (parseFrame_of_badEnd hlong hstart hmodule hchecksum hbad)
  exact ⟨hlong, hstart, hmodule, hchecksum, hfinish⟩

end

end Sys2Proof.Claim
end

section
/-! SUPPORT. Corrupted frames (42_decode.md R130): what replacing a byte leaves as it was. -/

namespace Sys2Proof.Claim

open Sys2Proof.Machine

section
variable {fr : List Byte} {i : Nat}

theorem getD_set_self (h : i < fr.length) (b : Byte) : (fr.set i b).getD i 0 = b := by
  simp [h]

theorem getD_set_ne {j : Nat} (h : i ≠ j) (b : Byte) : (fr.set i b).getD j 0 = fr.getD j 0 := by
  simp [h]

/-- Only bytes 3 and 4 declare the length (30_encoding.md R73). -/
theorem frameLen_set (h3 : i ≠ 3) (h4 : i ≠ 4) (b : Byte) : frameLen (fr.set i b) = frameLen fr := by
  rw [frameLen, num, num, getD_set_ne h3, getD_set_ne h4, frameLen, num, num]

/-- The bytes from the checksum field on are not covered (30_encoding.md R72). -/
theorem covered_set {l : Nat} (h : 9 + l ≤ i) (b : Byte) :
    ((fr.set i b).drop 1).take (8 + l) = (fr.drop 1).take (8 + l) := by
  rw [List.drop_set, if_neg (by omega), List.take_set_of_le (by omega)]

/-- The bytes from the end symbol on have no part in the checksum. -/
theorem checksumHolds_set_iff (h : 11 + frameLen fr ≤ i) (b : Byte) :
    ChecksumHolds (fr.set i b) ↔ ChecksumHolds fr := by
  rw [ChecksumHolds, frameLen_set (by omega) (by omega), covered_set (by omega), num, num,
    getD_set_ne (by omega), getD_set_ne (by omega)]
  rfl

end

/-- Two bytes are read off their number. -/
theorem byte_pair_inj {x y x' y' : Byte} (h : 256 * x.toNat + y.toNat = 256 * x'.toNat + y'.toNat) :
    x = x' ∧ y = y' := by
  have hy := y.isLt
  have hy' := y'.isLt
  exact ⟨BitVec.eq_of_toNat_eq (by omega), BitVec.eq_of_toNat_eq (by omega)⟩

/-- Another checksum field over the same covered bytes does not match. -/
theorem not_checksumHolds_of_replaced {fr : List Byte} (hlong : 12 + frameLen fr ≤ fr.length)
    (hck : ChecksumHolds fr) {x y : Byte}
    (hxy : x ≠ fr.getD (9 + frameLen fr) 0 ∨ y ≠ fr.getD (10 + frameLen fr) 0) :
    ¬ ChecksumHolds ((fr.set (9 + frameLen fr) x).set (10 + frameLen fr) y) := by
  intro h
  rw [ChecksumHolds, frameLen_set (by omega) (by omega), frameLen_set (by omega) (by omega),
    covered_set (by omega), covered_set (by omega), hck, num, num, num, num,
    getD_set_ne (by omega), getD_set_self (by omega), getD_set_self (by simp; omega)] at h
  obtain ⟨hx, hy⟩ := byte_pair_inj h
  exact hxy.elim (absurd hx.symm) (absurd hy.symm)

/-- Settles O24: each corruption keeps the length and the fields that are checked before the one it
spoils, so the first spoiled field is the one reported. -/
theorem corruptionYieldsTheFirstError : Obligations.CorruptionYieldsTheFirstError := by
  intro cfg fr r hok l
  obtain ⟨hlong, hstart, hmodule, hchecksum, -⟩ := validFrame_of_ok hok
  have hl : frameLen fr = l := rfl
  refine ⟨fun b hbad => ?start, fun b hbad => ?module, fun x y hbad => ?checksum, fun b hbad => ?finish,
    fun a b hbad _ => ?startModule, fun a x y b hbad => ?startTail, fun a x y b hbad => ?moduleTail,
    fun x y b hbad => ?checksumEnd⟩
  case start | startModule | startTail =>
    apply parseFrame_of_badStart
    · simpa (disch := omega) only [frameLen_set, List.length_set] using hlong
    · simpa (disch := omega) only [getD_set_ne, getD_set_self] using hbad
  case module | moduleTail =>
    apply parseFrame_of_badModule
    · simpa (disch := omega) only [frameLen_set, List.length_set] using hlong
    · simpa (disch := omega) only [getD_set_ne] using hstart
    · simpa (disch := omega) only [getD_set_ne, getD_set_self] using hbad
  case checksum | checksumEnd =>
    apply parseFrame_of_badChecksum
    · simpa (disch := omega) only [frameLen_set, List.length_set] using hlong
    · simpa (disch := omega) only [getD_set_ne] using hstart
    · simpa (disch := omega) only [getD_set_ne] using hmodule
    · simpa (disch := simp (disch := omega) only [frameLen_set, hl, le_refl]) only
        [checksumHolds_set_iff] using not_checksumHolds_of_replaced hlong hchecksum hbad
  case finish =>
    apply parseFrame_of_badEnd
    · simpa (disch := omega) only [frameLen_set, List.length_set] using hlong
    · simpa (disch := omega) only [getD_set_ne] using hstart
    · simpa (disch := omega) only [getD_set_ne] using hmodule
    · rwa [checksumHolds_set_iff (by omega)]
    · simpa (disch := omega) only [frameLen_set, hl, getD_set_self] using hbad

end Sys2Proof.Claim
end

section
/-! SUPPORT. Short buffers (42_decode.md R127). -/

namespace Sys2Proof.Claim

open Sys2Proof.Machine

/-- A buffer with enough bytes is never INCOMPLETE: each later check reports its own error. -/
theorem parseFrame_ne_incomplete {cfg : Config} {buf : List Byte}
    (h : 12 + frameLen buf ≤ buf.length) : parseFrame cfg buf ≠ .error .incomplete := by
  intro hinc
  have hchain := (validationOrder cfg buf).symm.trans hinc
  rw [if_neg (by omega)] at hchain
  split_ifs at hchain <;> cases hchain

theorem frameLen_frameEncode {m c : Byte} {p : List Byte} {f : Word} (hp : p.length ≤ 65535) :
    frameLen (frameEncode m c p f) = p.length := by
  obtain ⟨-, -, -, -, hlen, -⟩ := frameFieldOffsets m c p f hp
  exact hlen

/-- The declared length is read from the first five bytes (30_encoding.md R73). -/
theorem frameLen_take {n : Nat} (h : 5 ≤ n) (buf : List Byte) :
    frameLen (buf.take n) = frameLen buf := by
  simp [frameLen, num, show 3 < n by omega, show 4 < n by omega]

/-- Settles O26: only the length check reports INCOMPLETE, and a truncation to five bytes or more still
declares the length of the whole frame. -/
theorem shortBuffersAreIncomplete : Obligations.ShortBuffersAreIncomplete := by
  refine ⟨fun cfg buf => ⟨fun h => ?_, fun h => parseFrame_of_short (by omega)⟩,
    fun cfg m c p f n hp hn => parseFrame_of_short ?_⟩
  · by_contra hlong
    exact parseFrame_ne_incomplete (by omega) h
  · have hlength : ((frameEncode m c p f).take n).length = n := by simp; omega
    by_cases h5 : 5 ≤ n
    · rwa [frameLen_take h5, frameLen_frameEncode hp, hlength]
    · omega

end Sys2Proof.Claim
end

section
/-! SUPPORT. PARSE (42_decode.md R125): it records a result of parseFrame, and nothing parseFrame reads
changes. -/

namespace Sys2Proof.Machine

theorem exec_parse_of_notGenerated {s : State} (hg : s.gen = false) :
    exec .parse s = .next (recordParse s (.error .memory)) := by
  show execParse s = _
  rw [execParse, if_neg (by simp [hg])]

theorem exec_parse_of_fits {s : State} (hg : s.gen = true) (hidx : s.rx.idx.toNat ≤ s.rx.len.toNat) :
    exec .parse s =
      .next (recordParse s (parseFrame s.cfg (s.window .rx 0 s.rx.idx.toNat))) := by
  have hread := memReadRange_of_le (s := s) (d := .rx) (first := 0) ((Nat.zero_add _).trans_le hidx)
  show execParse s = _
  rw [execParse, if_pos hg, hread, faultOr_ok]

section
variable (s : State) (r : Except ErrKind Fields)

@[simp] theorem recordParse_gen : (recordParse s r).gen = s.gen := by cases r <;> rfl
@[simp] theorem recordParse_rx : (recordParse s r).rx = s.rx := by cases r <;> rfl
@[simp] theorem recordParse_cfg : (recordParse s r).cfg = s.cfg := by cases r <;> rfl

@[simp] theorem recordParse_window (d : Dir) (first count : Nat) :
    (recordParse s r).window d first count = s.window d first count := by
  rw [recordParse_eq]
  exact window_congr fun k _ => by cases d <;> rfl

@[simp] theorem recordParse_recordParse : recordParse (recordParse s r) r = recordParse s r := by
  cases r <;> rfl

end

end Sys2Proof.Machine

namespace Sys2Proof.Claim

open Sys2Proof.Machine

theorem errBit_eq_mask (k : ErrKind) : errBit k = k.mask := by cases k <;> rfl

/-- PARSE reads nothing that it writes, so a second one finds the same result. -/
theorem exec_parse_repeat {s t : State} (h : exec .parse s = .next t) : exec .parse t = .next t := by
  obtain ⟨hg, rfl⟩ | ⟨hg, hidx, rfl⟩ := execParse_next h
  · rw [exec_parse_of_notGenerated (by simpa using hg), recordParse_recordParse]
  · rw [exec_parse_of_fits (by simpa using hg) (by simpa using hidx), recordParse_cfg, recordParse_rx,
      recordParse_window, recordParse_recordParse]

/-- Settles O27: what PARSE records for each result of parseFrame, and that it can be repeated. -/
theorem parseRecordsTheResult : Obligations.ParseRecordsTheResult := by
  refine fun s => ⟨rfl, exec_parse_of_notGenerated, fun hg hidx => ⟨fun k hk => ?_, fun r hr => ?_⟩,
    fun t => exec_parse_repeat⟩
  · rw [exec_parse_of_fits hg hidx, hk, errBit_eq_mask]
    rfl
  · rw [exec_parse_of_fits hg hidx, hr]
    rfl

end Sys2Proof.Claim
end

section
/-! SUPPORT. RXBYTE (43_rx_assembler.md R135): each way of discarding or accepting a byte decides the outcome,
and where the length field stands once the byte is stored. -/

namespace Sys2Proof.Machine

section
variable {s : State} {b : Byte}

/-- The declared length and its number are empty together. -/
theorem be16_eq_zero_iff_rxLength_eq_zero (s : State) :
    be16 (s.cell .rx 3) (s.cell .rx 4) = 0 ↔ rxLength s = 0 :=
  (BitVec.toNat_inj (y := 0#16)).symm

/-- The fifth byte completes the length field (R138). -/
theorem rxLength_appended_of_idx_eq_four (h : s.rx.idx.toNat = 4) (b : Byte) :
    rxLength (appended b s) = 256 * (s.cell .rx 3).toNat + b.toNat := by
  rw [rxLength, be16_toNat, cell_appended, cell_appended, if_neg (by simp [h]), if_pos ⟨rfl, h.symm⟩,
    Nat.mul_comm]

/-- A byte after the fifth does not touch the length field. -/
theorem rxLength_appended_of_five_le_idx (h : 5 ≤ s.rx.idx.toNat) (b : Byte) :
    rxLength (appended b s) = rxLength s := by
  rw [rxLength, cell_appended, cell_appended, if_neg (by omega), if_neg (by omega), rxLength]

/-- R32: past the header the length field is stored. -/
theorem AssemblerInv.five_le_idx (hs : AssemblerInv s)
    (ha : s.asm = .collectingPayload ∨ s.asm = .collectingTail) : 5 ≤ s.rx.idx.toNat := by
  obtain ⟨-, -, hpayload, htail, -⟩ := hs
  exact ha.elim (fun h => (hpayload.mp h).1) (fun h => (htail.mp h).1)

/-- With room for the fifth byte, the declared length can be read after the write. -/
theorem declaredLen_appended (hidx : 4 ≤ s.rx.idx.toNat) (hroom : s.rx.idx.toNat < s.rx.len.toNat)
    (b : Byte) : declaredLen (appended b s) =
      .ok (be16 ((appended b s).cell .rx 3) ((appended b s).cell .rx 4)) :=
  declaredLen_of_lt (Nat.lt_of_le_of_lt hidx hroom)

/-- What both states past the header do with a byte that has room: store it, then read the length. -/
theorem appendThen_declaredLen (hidx : 4 ≤ s.rx.idx.toNat) (hroom : s.rx.idx.toNat < s.rx.len.toNat)
    (b : Byte) (k : State → Half → Outcome) :
    appendThen b s (fun t => faultOr (declaredLen t) (k t)) =
      k (appended b s) (be16 ((appended b s).cell .rx 3) ((appended b s).cell .rx 4)) := by
  rw [appendThen_room hroom, declaredLen_appended hidx hroom, faultOr_ok]

/-- A byte discarded for a reason is answered with that error, and nothing else changes. -/
theorem exec_rxbyte_of_discarded {k : ErrKind} (h : Discarded b s k) :
    exec (.rxbyte b) s = .next (respond k.mask false 0 s) := by
  show needStorage s _ = _
  cases h with
  | notGenerated hg => exact needStorage_false hg _
  | noStart hg ha hb =>
    rw [needStorage_true hg, ha]
    exact if_pos hb
  | full hg ha hb hf =>
    rw [needStorage_true hg]
    cases hasm : s.asm with
    | awaitStart => exact (if_neg (not_not.mpr (hb hasm))).trans (appendThen_full hf b _)
    | collectingHeader | collectingPayload | collectingTail => exact appendThen_full hf b _
    | complete => exact absurd hasm ha
  | complete hg ha =>
    rw [needStorage_true hg, ha]
    rfl

/-- A byte accepted with room is appended, and the assembler goes where it leads. -/
theorem exec_rxbyte_of_accepted {a : Asm} {done : Bool} (hs : AssemblerInv s) (hg : s.gen = true)
    (hroom : s.rx.idx.toNat < s.rx.len.toNat) (h : Accepted b s a done) :
    exec (.rxbyte b) s = .next (respond errSuccess done 0 { appended b s with asm := a }) := by
  show needStorage s _ = _
  rw [needStorage_true hg]
  cases h with
  | start ha hb =>
    rw [ha]
    exact (if_neg (not_not.mpr hb)).trans (appendThen_room hroom b _)
  | header ha hi =>
    rw [ha, appended_with_asm ha]
    exact (appendThen_room hroom b _).trans (if_neg hi)
  | lengthKnown ha hi =>
    have hidx : s.rx.idx.toNat + 1 = 5 := (appended_idx hroom b).symm.trans hi
    have hread := declaredLen_appended (by omega) hroom b
    rw [ha]
    refine (appendThen_room hroom b _).trans ((if_pos hi).trans ?_)
    rw [hread, faultOr_ok, succeed_eq]
  | payload ha hi =>
    have hidx := hs.five_le_idx (.inl ha)
    rw [ha, appended_with_asm ha]
    exact (appendThen_declaredLen (by omega) hroom b _).trans (if_neg hi)
  | payloadEnd ha hi =>
    have hidx := hs.five_le_idx (.inl ha)
    rw [ha]
    exact (appendThen_declaredLen (by omega) hroom b _).trans (if_pos hi)
  | tail ha hi =>
    have hidx := hs.five_le_idx (.inr ha)
    rw [ha, appended_with_asm ha]
    exact (appendThen_declaredLen (by omega) hroom b _).trans (if_neg hi)
  | frameEnd ha hi =>
    have hidx := hs.five_le_idx (.inr ha)
    rw [ha]
    exact (appendThen_declaredLen (by omega) hroom b _).trans (if_pos hi)

end

end Sys2Proof.Machine

namespace Sys2Proof.Claim

open Sys2Proof.Machine

section
variable {s : State} {b : Byte}

theorem accepts_of_accepted {a : Asm} {done : Bool} (hs : AssemblerInv s) (hg : s.gen = true)
    (hroom : s.rx.idx.toNat < s.rx.len.toNat) (h : Accepted b s a done) : accepts s b a done := by
  refine ⟨_, exec_rxbyte_of_accepted hs hg hroom h, rfl, fun i => ?_⟩
  calc (respond errSuccess done 0 { appended b s with asm := a }).cell .rx i
      = (appended b s).cell .rx i := rfl
    _ = if i = s.rx.idx.toNat then b else s.cell .rx i := by simp [cell_appended]

/-- Where the fifth byte leads is decided by the length it completes (R138). -/
theorem accepted_of_fifthByte (ha : s.asm = .collectingHeader) (hidx : s.rx.idx.toNat = 4)
    (hroom : s.rx.idx.toNat < s.rx.len.toNat) :
    Accepted b s (if 256 * (s.cell .rx 3).toNat + b.toNat = 0 then .collectingTail
      else .collectingPayload) false := by
  have hiff := be16_eq_zero_iff_rxLength_eq_zero (appended b s)
  rw [rxLength_appended_of_idx_eq_four hidx] at hiff
  rw [← if_congr hiff rfl rfl]
  exact .lengthKnown ha (by rw [appended_idx hroom, hidx])

end

/-- Settles O32: each row of the table is one way of discarding or accepting a byte; past the header the
byte stored leaves the declared length as it was. -/
theorem rxbyteTransitionTable : Obligations.RxbyteTransitionTable := by
  intro s b _ hs idx len l
  have discard {k : ErrKind} (h : Discarded b s k) : rejects (.rxbyte b) s k.mask :=
    exec_rxbyte_of_discarded h
  refine ⟨rfl, fun hg => discard (.notGenerated hg), fun hg => ?_⟩
  have accept {a : Asm} {done : Bool} (hroom : idx < len) (h : Accepted b s a done) :
      accepts s b a done := accepts_of_accepted hs hg hroom h
  have hlength (ha : s.asm = .collectingPayload ∨ s.asm = .collectingTail) :
      rxLength (appended b s) = l := rxLength_appended_of_five_le_idx (hs.five_le_idx ha) b
  refine ⟨?noStart, ?startFull, ?start, ?headerFull, ?header, ?payloadDeclared, ?noPayload,
    ?payloadFull, ?payload, ?payloadEnd, ?tailFull, ?tail, ?frameEnd, ?complete⟩
  case noStart => exact fun ha hb => discard (.noStart hg ha hb)
  case startFull =>
    exact fun ha hb hlen => discard (.full hg (by simp [ha]) (fun _ => hb) (hlen.trans_le (Nat.zero_le _)))
  case start =>
    intro ha hb hlen
    have hidx : idx = 0 := hs.1.mp ha
    exact accept (by omega) (.start ha hb)
  case headerFull | payloadFull | tailFull =>
    exact fun ha hfull => discard (.full hg (by simp [ha]) (by simp [ha]) hfull.ge)
  case header =>
    exact fun ha hroom hidx => accept hroom (.header ha (by rw [appended_idx hroom]; omega))
  case payloadDeclared =>
    intro ha hroom hidx hpos
    have h := accepted_of_fifthByte (b := b) ha hidx hroom
    rw [if_neg hpos.ne'] at h
    exact accept hroom h
  case noPayload =>
    intro ha hroom hidx hzero
    have h := accepted_of_fifthByte (b := b) ha hidx hroom
    rw [if_pos hzero] at h
    exact accept hroom h
  case payload =>
    intro ha hroom hidx
    have hl := hlength (.inl ha)
    exact accept hroom (.payload ha (by rw [appended_idx hroom, ← rxLength, hl]; omega))
  case payloadEnd =>
    intro ha hroom hidx
    have hl := hlength (.inl ha)
    exact accept hroom (.payloadEnd ha (by rw [appended_idx hroom, ← rxLength, hl]; omega))
  case tail =>
    intro ha hroom hidx
    have hl := hlength (.inr ha)
    exact accept hroom (.tail ha (by rw [appended_idx hroom, ← rxLength, hl]; omega))
  case frameEnd =>
    intro ha hroom hidx
    have hl := hlength (.inr ha)
    exact accept hroom (.frameEnd ha (by rw [appended_idx hroom, ← rxLength, hl]; omega))
  case complete => exact fun ha => discard (.complete hg ha)

end Sys2Proof.Claim
end

section
/-! SUPPORT. The Buffer Lifecycle operations (44_lifecycle.md): each one's outcome with and without its
condition, and the mask of GENERATE in numbers. -/

namespace Sys2Proof.Machine

/-! ### GENERATE -/

/-- The mask of R150, its bits as the numbers of R78. -/
theorem generateErr_eq (n : Half) (s : State) :
    generateErr n s =
      (if s.gen = true then 0x02 else 0) ||| (if s.cfg.blockLenMax.toNat < n.toNat then 0x01 else 0) := by
  rw [generateErr, errWhen_eq, errWhen_eq, if_congr decide_eq_true_iff rfl rfl]
  rfl

/-- R150: a GENERATE with a failing check answers the mask and changes nothing. -/
theorem exec_generate_of_err {n : Half} {s : State} (h : generateErr n s ≠ 0) :
    exec (.generate n) s = .next (respond (generateErr n s) false 0 s) :=
  congrArg Host.Outcome.next (if_neg h)

/-- R150: a GENERATE on a pair that is not generated, within the maximum, allocates. -/
theorem exec_generate_of_fits {n : Half} {s : State} (hg : s.gen = false)
    (hn : n.toNat ≤ s.cfg.blockLenMax.toNat) :
    exec (.generate n) s = .next (respond errSuccess false 0 (allocate n s)) :=
  congrArg Host.Outcome.next (if_pos ((generateErr_eq_zero_iff n s).mpr ⟨hg, hn⟩))

/-! ### DESTROY and the flushes -/

section
variable {s : State}

theorem exec_destroy_of_generated (hg : s.gen = true) :
    exec .destroy s = .next (respond errSuccess false 0 (release s)) :=
  needStorage_true hg _

theorem exec_flushtx_of_generated (hg : s.gen = true) :
    exec .flushtx s = .next (respond errSuccess false 0 (rewindTx s)) :=
  needStorage_true hg _

theorem exec_flushrx_of_generated (hg : s.gen = true) :
    exec .flushrx s = .next (respond errSuccess false 0 (rewindRx s)) :=
  needStorage_true hg _

theorem exec_flushboth_of_generated (hg : s.gen = true) :
    exec .flushboth s = .next (respond errSuccess false 0 (rewindRx (rewindTx s))) :=
  needStorage_true hg _

/-- R154: FLUSHTX keeps the pair generated, and the response of FLUSHRX replaces its own. -/
theorem runInstrs_flushtx_flushrx (hg : s.gen = true) :
    runInstrs [.flushtx, .flushrx] s = exec .flushboth s := by
  have hrx : exec .flushrx (respond errSuccess false 0 (rewindTx s)) = _ :=
    exec_flushrx_of_generated hg
  rw [runInstrs_cons_of_next (exec_flushtx_of_generated hg), runInstrs_cons_of_next hrx,
    exec_flushboth_of_generated hg]
  rfl

end

end Sys2Proof.Machine

namespace Sys2Proof.Claim

open Sys2Proof.Machine

/-- A GENERATE whose mask is not empty is refused with that mask. -/
theorem rejects_generate {n : Half} {s : State} {err : Word} (h : generateErr n s = err) (hne : err ≠ 0) :
    rejects (.generate n) s err := by
  subst h
  exact exec_generate_of_err hne

/-- R151 to R154: DESTROY and the flushes need storage. -/
theorem rejects_of_notGenerated {i : Instr} {s : State} (hg : s.gen = false)
    (hi : i = .destroy ∨ i = .flushtx ∨ i = .flushrx ∨ i = .flushboth) : rejects i s 0x01 := by
  obtain rfl | rfl | rfl | rfl := hi <;> exact needStorage_false hg _

/-- Settles O34: the mask in numbers decides the three refusals; an empty mask allocates. -/
theorem generateAllocatesBothBuffers : Obligations.GenerateAllocatesBothBuffers := by
  intro n s
  have herr := generateErr_eq n s
  refine ⟨rfl, ?state, ?memory, ?both, ?success⟩
  case state =>
    intro hg hn
    rw [if_pos hg, if_neg hn.not_gt] at herr
    exact rejects_generate herr (by decide)
  case memory =>
    intro hg hn
    rw [if_neg (by simp [hg]), if_pos hn] at herr
    exact rejects_generate herr (by decide)
  case both =>
    intro hg hn
    rw [if_pos hg, if_pos hn] at herr
    exact rejects_generate herr (by decide)
  case success =>
    exact fun hg hn => ⟨_, exec_generate_of_fits hg hn, rfl, fun _ => ⟨rfl, rfl⟩⟩

/-- Settles O35: what `release` leaves is the reset state but for the accumulator. -/
theorem destroyLeavesOnlyTheAccumulator : Obligations.DestroyLeavesOnlyTheAccumulator := by
  refine fun s => ⟨rfl, fun hg => rejects_of_notGenerated hg (.inl rfl), fun hg =>
    ⟨_, exec_destroy_of_generated hg, ?_, rfl, rfl, rfl, rfl⟩⟩
  exact ⟨rfl, rfl, rfl, rfl, rfl, rfl, rfl⟩

/-- Settles O36: without storage each flush is refused, with it the cursors and the assembler are
rewound. -/
theorem flushesRewindCursorsOnly : Obligations.FlushesRewindCursorsOnly := by
  refine fun s => ⟨rfl, rfl, rfl, fun hg => ?_, fun hg => ?_⟩
  · exact ⟨rejects_of_notGenerated hg (by simp), rejects_of_notGenerated hg (by simp),
      rejects_of_notGenerated hg (by simp)⟩
  · exact ⟨exec_flushtx_of_generated hg, exec_flushrx_of_generated hg, exec_flushboth_of_generated hg,
      runInstrs_flushtx_flushrx hg⟩

end Sys2Proof.Claim
end

section
/-! SUPPORT. The read-out operations (45_readout.md R160 to R163): the two outcomes of a read below the
cursor, and that what was last handed back has no part in a read. -/

namespace Sys2Proof.Machine

/-- A read is refused without storage, and at an index no accepted byte has reached. -/
theorem readBelowCursor_of_unreached {s : State} {d : Dir} {idx : Half}
    (h : s.gen = false ∨ (s.buffer d).idx.toNat ≤ idx.toNat) :
    readBelowCursor d idx s = .next (respond ErrKind.memory.mask false 0 s) := by
  cases hg : s.gen with
  | false => exact needStorage_false hg _
  | true =>
    rw [readBelowCursor, needStorage_true hg]
    exact if_pos (h.resolve_left (by simp [hg]))

/-- Below a cursor that lies within the buffer a read answers the cell's byte. -/
theorem readBelowCursor_of_reached {s : State} {d : Dir} {idx : Half} (hg : s.gen = true)
    (hcursor : (s.buffer d).idx.toNat ≤ (s.buffer d).len.toNat)
    (h : idx.toNat < (s.buffer d).idx.toNat) :
    readBelowCursor d idx s =
      .next (respond errSuccess false (BitVec.ofNat 32 (s.cell d idx.toNat).toNat) s) := by
  rw [readBelowCursor, needStorage_true hg, if_neg (Nat.not_le.mpr h),
    memRead_of_lt (Nat.lt_of_lt_of_le h hcursor), BitVec.ofNat_toNat]
  rfl

/-- R23, for either buffer. -/
theorem cursor_le_of_storageInv {s : State} (h : StorageInv s) (d : Dir) :
    (s.buffer d).idx.toNat ≤ (s.buffer d).len.toNat := by
  obtain ⟨⟨-, -, htx⟩, ⟨-, -, hrx⟩, -⟩ := h
  cases d with
  | tx => exact htx
  | rx => exact hrx

/-- The operations of 45_readout.md. -/
inductive IsReadOut : Instr → Prop where
  | rdreg (sel : Byte) : IsReadOut (.rdreg sel)
  | rxrd (idx : Half) : IsReadOut (.rxrd idx)
  | txrd (idx : Half) : IsReadOut (.txrd idx)

/-- A read that goes on leaves every register and cell as it was. -/
theorem IsReadOut.exec_frame {i : Instr} (hi : IsReadOut i) {s t : State} (h : exec i s = .next t) :
    t = { s with result := t.result } := by
  cases hi with
  | rdreg sel => obtain ⟨-, rfl⟩ | ⟨r, v, -, -, rfl⟩ := execRdreg_next h <;> rfl
  | rxrd idx | txrd idx => obtain ⟨-, rfl⟩ | ⟨-, -, -, rfl⟩ := readBelowCursor_next h <;> rfl

/-- A read does not depend on what was handed back before it, and replaces it. -/
theorem IsReadOut.exec_with_result {i : Instr} (hi : IsReadOut i) (s : State) (r : Option Result) :
    exec i { s with result := r } = exec i s := by
  cases hi with
  | rdreg sel | rxrd idx | txrd idx => rfl

/-- The same read again gives the same state. -/
theorem IsReadOut.exec_again {i : Instr} (hi : IsReadOut i) {s t : State} (h : exec i s = .next t) :
    exec i t = .next t := by
  rw [hi.exec_frame h, hi.exec_with_result, ← hi.exec_frame h, h]

end Sys2Proof.Machine

namespace Sys2Proof.Claim

open Sys2Proof.Machine

/-- Settles O39: both reads are `readBelowCursor`, each at its own cursor, which StorageInv keeps within
the buffer. -/
theorem bytesBelowTheCursorAreReadable : Obligations.BytesBelowTheCursorAreReadable := by
  intro s idx hinv
  have refused (d : Dir) (h : s.gen = false ∨ (s.buffer d).idx.toNat ≤ idx.toNat) :=
    readBelowCursor_of_unreached h
  have read (d : Dir) (hg : s.gen = true) (h : idx.toNat < (s.buffer d).idx.toNat) :=
    readBelowCursor_of_reached hg (cursor_le_of_storageInv hinv d) h
  exact ⟨rfl, rfl, fun hg => ⟨refused .rx (.inl hg), refused .tx (.inl hg)⟩,
    fun hi => refused .rx (.inr hi), fun hi => refused .tx (.inr hi), read .rx, read .tx⟩

/-- Settles O40: a read changes at most `result`, on which no read depends. -/
theorem readOutChangesNothing : Obligations.ReadOutChangesNothing := by
  intro i s t hi h
  have hread : IsReadOut i := by
    obtain ⟨sel, rfl⟩ | ⟨idx, rfl⟩ | ⟨idx, rfl⟩ := hi
    · exact .rdreg sel
    · exact .rxrd idx
    · exact .txrd idx
  exact ⟨hread.exec_frame h, hread.exec_again h⟩

end Sys2Proof.Claim
end

section
/-! SUPPORT. What an operation that reports an error has done (60_exceptions.md R194). -/

namespace Sys2Proof.Claim

open Sys2Proof.Machine

/-- What the step of an operation from `s` to `t` can be: a success, whatever it changed; a change of
the response port alone (every refusal, an illegal selector included, and every read-out); or a failure of
one of the two operations whose rule names an error register. -/
inductive StepEffect : Instr → State → State → Prop where
  | success {i : Instr} {s t : State} (complete : Bool) (data : Word)
      (h : handsBack t 0 complete data) : StepEffect i s t
  | portOnly {i : Instr} {s : State} (r : Option Result) : StepEffect i s { s with result := r }
  | constructFailure {s : State} (err : Word) (r : Option Result) :
      StepEffect .construct s { s with txp := { s.txp with error := err }, result := r }
  | parseFailure {s : State} (err : Word) (r : Option Result) :
      StepEffect .parse s { s with rxp := { s.rxp with error := err }, result := r }

/-- An operation that needs storage and cannot fail once it has it. -/
theorem needStorage_stepEffect {i : Instr} {s t u : State}
    (h : needStorage s (.next (succeed u)) = .next t) : StepEffect i s t := by
  obtain ⟨-, rfl⟩ | ⟨-, hu⟩ := needStorage_next h
  · exact .portOnly _
  · cases hu; exact .success false 0 rfl

theorem execGenerate_stepEffect {n : Half} {s t : State} (h : execGenerate n s = .next t) :
    StepEffect (.generate n) s t := by
  obtain ⟨-, -, rfl⟩ | ⟨-, rfl⟩ := execGenerate_next h
  · exact .success false 0 rfl
  · exact .portOnly _

theorem execRxbyte_stepEffect {b : Byte} {s t : State} (h : execRxbyte b s = .next t) :
    StepEffect (.rxbyte b) s t := by
  obtain ⟨k, -, rfl⟩ | ⟨a, done, -, -, -, rfl⟩ := execRxbyte_next h
  · exact .portOnly _
  · exact .success done 0 rfl

theorem recordParse_stepEffect (s : State) (r : Except ErrKind Fields) :
    StepEffect .parse s (recordParse s r) := by
  cases r with
  | error k => exact .parseFailure k.mask _
  | ok f => exact .success false 0 rfl

theorem execParse_stepEffect {s t : State} (h : execParse s = .next t) : StepEffect .parse s t := by
  obtain ⟨-, rfl⟩ | ⟨-, -, rfl⟩ := execParse_next h <;> exact recordParse_stepEffect s _

theorem execTxpay_stepEffect {idx : Half} {b : Byte} {s t : State} (h : execTxpay idx b s = .next t) :
    StepEffect (.txpay idx b) s t := by
  obtain ⟨-, rfl⟩ | ⟨-, -, rfl⟩ := execTxpay_next h
  · exact .portOnly _
  · exact .success false 0 rfl

theorem execConstruct_stepEffect {s t : State} (h : execConstruct s = .next t) :
    StepEffect .construct s t := by
  obtain ⟨-, rfl⟩ | ⟨-, u, -, rfl⟩ := execConstruct_next h
  · exact .constructFailure (constructErr s) _
  · exact .success false 0 rfl

theorem readOut_stepEffect {i : Instr} (hi : IsReadOut i) {s t : State} (h : exec i s = .next t) :
    StepEffect i s t := by
  rw [hi.exec_frame h]
  exact .portOnly _

/-- The effect of every operation that goes on. -/
theorem exec_stepEffect {i : Instr} {s t : State} (h : exec i s = .next t) : StepEffect i s t := by
  cases i with
  | generate n => exact execGenerate_stepEffect h
  | destroy | flushtx | flushrx | flushboth => exact needStorage_stepEffect h
  | rxbyte b => exact execRxbyte_stepEffect h
  | parse => exact execParse_stepEffect h
  | txpay idx b => exact execTxpay_stepEffect h
  | construct => exact execConstruct_stepEffect h
  | rdreg sel => exact readOut_stepEffect (.rdreg sel) h
  | rxrd idx => exact readOut_stepEffect (.rxrd idx) h
  | txrd idx => exact readOut_stepEffect (.txrd idx) h
  | txmod v | txcmd v | txlen v | txflags v | ckclr | ckadd b | ckget =>
    cases h; exact .success false _ rfl

/-- Settles O43: a response with a mask is no success, and the other effects change at most the error
register of their operation. -/
theorem errorsArePrecise : Obligations.ErrorsArePrecise := by
  intro i s t r h hr herr
  cases exec_stepEffect h with
  | success _ _ hs => cases hr.symm.trans hs; exact absurd rfl herr
  | portOnly _ => exact ⟨rfl, fun _ => rfl, fun _ => rfl⟩
  | constructFailure _ _ => exact ⟨rfl, fun hi => absurd rfl hi, fun _ => rfl⟩
  | parseFailure _ _ => exact ⟨rfl, fun _ => rfl, fun hi => absurd rfl hi⟩

end Sys2Proof.Claim
end

section
/-! SUPPORT. Command words both ways (30_encoding.md R80, R81, R83, R91), and what a step does with the first
pending input (20_memory.md R58, R59). -/

namespace Sys2Proof

/-- The word of a well-formed operation decodes to it: its own row selects the word. -/
theorem decode_encode {i : Instr} (h : i.wellFormed = true) : decode (encode i) = .ok i :=
  decode_eq_ok_iff.mpr ⟨i.opcode, i.row_selects, by simp [encode], h⟩

/-- A word that decodes is the word of its operation: both fields are kept. -/
theorem encode_of_decode {w : CmdWord} {i : Instr} (h : decode w = .ok i) : encode i = w := by
  obtain ⟨o, ho, hr, rfl, -⟩ := decode_ok h
  calc encode (o.instr (argField w))
      = cmdWord o.row.code (o.instr (argField w)).arg := by rw [encode, Opcode.opcode_instr]
    _ = cmdWord (opField w) (argField w) := by rw [Opcode.code_of_ofCode ho, Opcode.arg_instr hr]
    _ = w := cmdWord_fields w

/-- A word does not decode exactly when it decodes to no operation. -/
theorem decode_error_iff (w : CmdWord) : (∃ e, decode w = .error e) ↔ ¬ ∃ i, decode w = .ok i := by
  cases decode w <;> simp

end Sys2Proof

namespace Sys2Proof.Machine

/-! ### The first pending input -/

section
variable {s : State} {rest : List Input}

theorem step_of_idle (h : s.pending = []) : step s = .next s := by
  simp only [step, taken, h]

theorem step_of_reset (h : s.pending = .reset :: rest) :
    step s = .next (resetEvent { s with pending := rest }) := by
  simp only [step, taken, h, dropInput, List.tail_cons]

theorem step_of_decode {w : CmdWord} {i : Instr} (h : s.pending = .command w :: rest)
    (hd : decode w = .ok i) : step s = exec i { s with pending := rest } := by
  simp only [step, taken, h, hd, dropInput, List.tail_cons]

theorem step_of_illegal {w : CmdWord} {e : DecodeError} (h : s.pending = .command w :: rest)
    (hd : decode w = .error e) : step s = .next (raiseIllegal w { s with pending := rest }) := by
  simp only [step, taken, h, hd, dropInput, List.tail_cons]

end

end Sys2Proof.Machine

namespace Sys2Proof.Claim

open Sys2Proof.Machine

/-! ### The words of R91 -/

/-- The assigned opcodes are the codes of the table. -/
theorem assignedOps_eq : assignedOps = Opcode.all.map fun o => o.row.code.toNat := by decide

theorem mem_assignedOps_iff (c : Byte) : c.toNat ∈ assignedOps ↔ ∃ o : Opcode, o.row.code = c := by
  simp [assignedOps_eq, BitVec.toNat_inj]

/-- The must-be-zero bits by opcode are those of the opcode's shape. -/
theorem mustBeZero_code (o : Opcode) : mustBeZero o.row.code.toNat = o.row.shape.reserved := by
  cases o <;> decide

theorem code_eq_rdreg_iff (o : Opcode) : o.row.code.toNat = 0x30 ↔ o.row.mnemonic = "RDREG" := by
  cases o <;> decide

/-- A word whose opcode is assigned is legal exactly when R91 (b) and (c) are clear. -/
theorem not_illegal_iff {w : CmdWord} {o : Opcode} (ho : o.row.code = opField w) :
    ¬ illegal w ↔ argField w &&& o.row.shape.reserved = 0 ∧
      (o.row.mnemonic = "RDREG" → w.extractLsb' 0 8 ∈ printedSelectors) := by
  have hop : w.extractLsb' 32 8 = o.row.code := ho.symm
  have hassigned : o.row.code.toNat ∈ assignedOps := (mem_assignedOps_iff _).mpr ⟨o, rfl⟩
  rw [illegal, hop, mustBeZero_code, code_eq_rdreg_iff, not_or, not_or, not_not, not_not, not_and, not_not]
  exact and_iff_right hassigned

/-- The legal words are those that decode. -/
theorem decodes_iff_not_illegal (w : CmdWord) : (∃ i, decode w = .ok i) ↔ ¬ illegal w := by
  constructor
  · rintro ⟨i, h⟩
    obtain ⟨o, hs, rfl, hw⟩ := decode_eq_ok_iff.mp h
    obtain ⟨hop, hr⟩ := (o.row.selects_iff w).mp hs
    exact (not_illegal_iff hop.symm).mpr ⟨hr, (wellFormed_instr_iff o w).mp hw⟩
  · intro h
    obtain ⟨o, ho⟩ := (mem_assignedOps_iff (opField w)).mp (by_contra fun hc => h (.inl hc))
    obtain ⟨hr, hsel⟩ := (not_illegal_iff ho).mp h
    exact ⟨_, decode_eq_ok_iff.mpr ⟨o, (o.row.selects_iff w).mpr ⟨ho.symm, hr⟩, rfl,
      (wellFormed_instr_iff o w).mpr hsel⟩⟩

/-- Settles O1: twenty closed words, each decoded by the table. -/
theorem decodeOfSpecWords : Obligations.DecodeOfSpecWords := by
  unfold Obligations.DecodeOfSpecWords
  decide

/-- Settles O2: the operation's own row selects its word. -/
theorem decodeEncodeRoundTrip : Obligations.DecodeEncodeRoundTrip := fun _ h => decode_encode h

/-- Settles O3: a word that decodes is its two fields, and both are those of the operation. -/
theorem encodeDecodeRoundTrip : Obligations.EncodeDecodeRoundTrip := by
  intro w i h
  obtain ⟨o, -, -, -, hw⟩ := decode_ok h
  exact ⟨encode_of_decode h, hw⟩

/-- Settles O6: the three clauses of R91 are the three ways in which no row of the map selects a word with a
listed selector; a step on such a word raises IllegalCommand. -/
theorem illegalWordChangesNothing : Obligations.IllegalWordChangesNothing := by
  have hillegal (w : CmdWord) : (∃ e, decode w = .error e) ↔ illegal w := by
    rw [decode_error_iff, decodes_iff_not_illegal, not_not]
  refine ⟨hillegal, fun s w rest hp hw => ?_⟩
  obtain ⟨e, he⟩ := (hillegal w).mpr hw
  exact step_of_illegal hp he

/-- Settles O7: the decoded operation is run on the state without its word. -/
theorem stepRunsTheDecodedOperation : Obligations.StepRunsTheDecodedOperation :=
  fun _ _ _ _ => step_of_decode

/-- Settles O8: nothing is taken from an empty port. -/
theorem quiescentWithoutACommand : Obligations.QuiescentWithoutACommand := fun _ => step_of_idle

/-- Settles O9: `resetEvent` takes every register from `State.reset`. -/
theorem resetRestoresEveryRegister : Obligations.ResetRestoresEveryRegister := by
  have hreset : registersReset State.reset := ⟨rfl, rfl, rfl, rfl, rfl, rfl, rfl⟩
  exact ⟨hreset, fun s rest hp => ⟨_, step_of_reset hp, hreset, rfl, rfl, rfl⟩⟩

end Sys2Proof.Claim
end

section
/-! SUPPORT. What the operations do not look at: the host's list of pending inputs (20_memory.md R59), and,
but for the checksum port and RDREG 0x30, the accumulator (40_checksum.md R108). Editing either before an
operation is editing it afterwards. -/

namespace Sys2Proof.Machine

open Sys2Proof.Claim

/-- The state with the accumulator and the pending inputs edited. -/
def editUnseen (c : Half → Half) (p : List Input → List Input) (s : State) : State :=
  { s with ck := c s.ck, pending := p s.pending }

/-- The operations that use the accumulator (log 12). -/
def usesAccumulator : Instr → Bool
  | .ckclr => true
  | .ckadd _ => true
  | .ckget => true
  | .rdreg sel => sel == 0x30
  | _ => false

section
variable (c : Half → Half) (p : List Input → List Input) (s : State)

/-! ### The shared operations -/

theorem needStorage_editUnseen {k k' : Outcome} (h : k' = mapNext (editUnseen c p) k) :
    needStorage (editUnseen c p s) k' = mapNext (editUnseen c p) (needStorage s k) := by
  cases hg : s.gen with
  | false =>
    rw [needStorage_false hg, needStorage_false (s := editUnseen c p s) hg]
    rfl
  | true => rw [needStorage_true hg, needStorage_true (s := editUnseen c p s) hg, h]

theorem faultOr_editUnseen {α : Type} (r : Except Fault α) {k k' : α → Outcome}
    (h : ∀ a, k' a = mapNext (editUnseen c p) (k a)) :
    faultOr r k' = mapNext (editUnseen c p) (faultOr r k) := by
  cases r with
  | ok a => exact h a
  | error f => rfl

theorem faultOr_map_editUnseen (r : Except Fault State) {k k' : State → Outcome}
    (h : ∀ t, k' (editUnseen c p t) = mapNext (editUnseen c p) (k t)) :
    faultOr (r.map (editUnseen c p)) k' = mapNext (editUnseen c p) (faultOr r k) := by
  cases r with
  | ok t => exact h t
  | error f => rfl

theorem appendThen_editUnseen (b : Byte) {k k' : State → Outcome}
    (h : ∀ t, k' (editUnseen c p t) = mapNext (editUnseen c p) (k t)) :
    appendThen b (editUnseen c p s) k' = mapNext (editUnseen c p) (appendThen b s k) := by
  by_cases hr : s.rx.idx.toNat < s.rx.len.toNat
  · rw [appendThen_room hr, appendThen_room (s := editUnseen c p s) hr, ← h]
    rfl
  · rw [appendThen_full (Nat.le_of_not_lt hr),
      appendThen_full (s := editUnseen c p s) (Nat.le_of_not_lt hr)]
    rfl

theorem memWrite_tx_editUnseen (i : Nat) (b : Byte) :
    memWrite (editUnseen c p s) .tx i b = (memWrite s .tx i b).map (editUnseen c p) := by
  have hbuffer : (editUnseen c p s).buffer .tx = s.buffer .tx := rfl
  rw [memWrite, memWrite, hbuffer]
  split <;> rfl

theorem memWriteRange_tx_editUnseen (first : Nat) (bytes : List Byte) :
    memWriteRange (editUnseen c p s) .tx first bytes =
      (memWriteRange s .tx first bytes).map (editUnseen c p) := by
  induction bytes generalizing s first with
  | nil => rfl
  | cons b bytes ih =>
    rw [memWriteRange, memWriteRange, memWrite_tx_editUnseen]
    cases memWrite s .tx first b with
    | ok t => exact ih t (first + 1)
    | error f => rfl

theorem writeFrame_editUnseen :
    writeFrame (editUnseen c p s) = (writeFrame s).map (editUnseen c p) := by
  unfold writeFrame
  simp only [memWriteRange_tx_editUnseen]
  have htxp : (editUnseen c p s).txp = s.txp := rfl
  rw [htxp]
  cases memWriteRange s .tx 0 _ with
  | error f => rfl
  | ok s1 =>
    simp only [Except.map, memWriteRange_tx_editUnseen]
    cases memWriteRange s1 .tx (5 + s.txp.payloadLen.toNat) _ with
    | error f => rfl
    | ok s2 =>
      have hread (n : Nat) : memReadRange (editUnseen c p s2) .tx 1 n = memReadRange s2 .tx 1 n := rfl
      simp only [Except.map, memWriteRange_tx_editUnseen, hread]
      cases memReadRange s2 .tx 1 (8 + s.txp.payloadLen.toNat) with
      | error f => rfl
      | ok covered => rfl

/-! ### The meanings that read buffers or registers -/

theorem execGenerate_editUnseen (n : Half) :
    execGenerate n (editUnseen c p s) = mapNext (editUnseen c p) (execGenerate n s) := by
  have herr : generateErr n (editUnseen c p s) = generateErr n s := rfl
  rw [execGenerate, execGenerate, herr]
  split <;> rfl

theorem execRxbyte_editUnseen (b : Byte) :
    execRxbyte b (editUnseen c p s) = mapNext (editUnseen c p) (execRxbyte b s) := by
  refine needStorage_editUnseen c p s ?_
  have hasm : (editUnseen c p s).asm = s.asm := rfl
  rw [hasm]
  cases s.asm with
  | awaitStart =>
    simp only [rxAwaitStart]
    split
    · rfl
    · exact appendThen_editUnseen c p s b fun t => rfl
  | collectingHeader =>
    refine appendThen_editUnseen c p s b fun t => ?_
    have hidx : (editUnseen c p t).rx = t.rx := rfl
    simp only [hidx]
    split
    · exact faultOr_editUnseen c p (declaredLen t) fun l => rfl
    · rfl
  | collectingPayload | collectingTail =>
    refine appendThen_editUnseen c p s b fun t => faultOr_editUnseen c p (declaredLen t) fun l => ?_
    have hidx : (editUnseen c p t).rx = t.rx := rfl
    simp only [hidx]
    split <;> rfl
  | complete => rfl

theorem execParse_editUnseen :
    execParse (editUnseen c p s) = mapNext (editUnseen c p) (execParse s) := by
  have hrecord (r : Except ErrKind Fields) :
      recordParse (editUnseen c p s) r = editUnseen c p (recordParse s r) := by cases r <;> rfl
  have hgen : (editUnseen c p s).gen = s.gen := rfl
  rw [execParse, execParse, hgen]
  split
  · exact faultOr_editUnseen c p _ fun buf => congrArg Host.Outcome.next (hrecord _)
  · exact congrArg Host.Outcome.next (hrecord _)

theorem execTxpay_editUnseen (idx : Half) (b : Byte) :
    execTxpay idx b (editUnseen c p s) = mapNext (editUnseen c p) (execTxpay idx b s) := by
  refine needStorage_editUnseen c p s ?_
  have htx : (editUnseen c p s).tx = s.tx := rfl
  rw [htx, memWrite_tx_editUnseen]
  split
  · rfl
  · exact faultOr_map_editUnseen c p _ fun t => rfl

theorem execConstruct_editUnseen :
    execConstruct (editUnseen c p s) = mapNext (editUnseen c p) (execConstruct s) := by
  cases hc : constructFails s with
  | true =>
    rw [execConstruct_fails hc, execConstruct_fails (s := editUnseen c p s) hc]
    rfl
  | false =>
    have hwrite := writeFrame_editUnseen c p (withTxError s)
    obtain ⟨u, hu, -⟩ := exec_construct_of_ready hc
    rw [hu] at hwrite
    rw [execConstruct_of_writeFrame hc hu,
      execConstruct_of_writeFrame (s := editUnseen c p s) hc hwrite]
    rfl

theorem readBelowCursor_editUnseen (d : Dir) (idx : Half) :
    readBelowCursor d idx (editUnseen c p s) = mapNext (editUnseen c p) (readBelowCursor d idx s) := by
  have hbuffer : (editUnseen c p s).buffer d = s.buffer d := by cases d <;> rfl
  have hread : memRead (editUnseen c p s) d idx.toNat = memRead s d idx.toNat := by cases d <;> rfl
  refine needStorage_editUnseen c p s ?_
  rw [hbuffer, hread]
  split
  · rfl
  · exact faultOr_editUnseen c p _ fun b => rfl

/-- RDREG shows the accumulator under selector 0x30 only. -/
theorem execRdreg_editUnseen {sel : Byte} (h : c = id ∨ sel ≠ 0x30) :
    execRdreg sel (editUnseen c p s) = mapNext (editUnseen c p) (execRdreg sel s) := by
  cases hr : Reg.ofSel sel with
  | none =>
    simp only [execRdreg, hr]
    rfl
  | some r =>
    have hvalue : regValue (editUnseen c p s) r = regValue s r := by
      cases r with
      | ck =>
        obtain rfl | hsel := h
        · rfl
        · exact absurd (Reg.selector_of_ofSel hr).symm hsel
      | _ => rfl
    simp only [execRdreg, hr, hvalue]
    exact faultOr_editUnseen c p _ fun v => rfl

/-- No operation looks at the pending inputs, and only those of `usesAccumulator` at the accumulator. -/
theorem exec_editUnseen (i : Instr) (h : c = id ∨ usesAccumulator i = false) :
    exec i (editUnseen c p s) = mapNext (editUnseen c p) (exec i s) := by
  cases i with
  | generate n => exact execGenerate_editUnseen c p s n
  | destroy | flushtx | flushrx | flushboth => exact needStorage_editUnseen c p s rfl
  | rxbyte b => exact execRxbyte_editUnseen c p s b
  | parse => exact execParse_editUnseen c p s
  | txpay idx b => exact execTxpay_editUnseen c p s idx b
  | construct => exact execConstruct_editUnseen c p s
  | rdreg sel => exact execRdreg_editUnseen c p s (h.imp_right (by simp [usesAccumulator]))
  | rxrd idx | txrd idx => exact readBelowCursor_editUnseen c p s _ idx
  | txmod v | txcmd v | txlen v | txflags v => rfl
  | ckclr | ckadd b | ckget =>
    obtain rfl | hu := h
    · rfl
    · cases hu

end

/-- R59: what is still pending has no part in an operation. -/
theorem exec_with_pending (i : Instr) (s : State) (q : List Input) :
    exec i { s with pending := q } = mapNext (fun t => { t with pending := q }) (exec i s) :=
  exec_editUnseen id (fun _ => q) s i (.inl rfl)

/-- The words of well-formed operations, stepped through, are the operations run one after the other. -/
theorem run_issued {is : List Instr} (h : ∀ i ∈ is, i.wellFormed = true) (s : State) :
    Host.Core.run Sys2Proof.core is.length { s with pending := issued is } =
      runInstrs is { s with pending := [] } := by
  induction is generalizing s with
  | nil => rfl
  | cons i is ih =>
    obtain ⟨hi, his⟩ := List.forall_mem_cons.mp h
    have hstep : Sys2Proof.core.step { s with pending := issued (i :: is) } =
        mapNext (fun t => { t with pending := issued is }) (exec i s) :=
      (step_of_decode rfl (decode_encode hi)).trans (exec_with_pending i s (issued is))
    simp only [List.length_cons, Host.Core.run, hstep, runInstrs, exec_with_pending]
    cases exec i s with
    | next t => exact ih his t
    | fault f => rfl
    | refused r => rfl

end Sys2Proof.Machine

namespace Sys2Proof.Claim

open Sys2Proof.Machine

/-- Settles O10: each step takes the next word, which decodes to its operation, and no operation looks at
the words behind it. -/
theorem commandsRunInIssueOrder : Obligations.CommandsRunInIssueOrder :=
  fun _ s h => run_issued h s

/-- Settles O16: the accumulator is one of the two fields `exec_editUnseen` edits. -/
theorem onlyTheChecksumPortUsesTheAccumulator : Obligations.OnlyTheChecksumPortUsesTheAccumulator := by
  intro i s k hclr hadd hget hrd
  have hi : usesAccumulator i = false := by
    cases i with
    | ckclr => exact absurd rfl hclr
    | ckadd b => exact absurd rfl (hadd b)
    | ckget => exact absurd rfl hget
    | rdreg sel => simpa [usesAccumulator] using hrd
    | _ => rfl
  exact exec_editUnseen (fun _ => k) id s i (.inr hi)

end Sys2Proof.Claim
end

section
/-! SUPPORT. The laws of the checksum (40_checksum.md R102, R103) and the sequence of R108 on the streaming
port. -/

namespace Sys2Proof.Machine

/-- What replacing a byte does to the sum. -/
theorem byteSum_set {x : List Byte} {i : Nat} (h : i < x.length) (v : Byte) :
    byteSum (x.set i v) + (x.getD i 0).setWidth 16 = byteSum x + v.setWidth 16 := by
  induction x generalizing i with
  | nil => simp at h
  | cons b x ih =>
    cases i with
    | zero =>
      rw [List.set_cons_zero, byteSum_cons, byteSum_cons, List.getD_cons_zero]
      ac_rfl
    | succ i =>
      rw [List.set_cons_succ, byteSum_cons, byteSum_cons, List.getD_cons_succ, BitVec.add_assoc,
        ih (Nat.lt_of_succ_lt_succ h), BitVec.add_assoc]

theorem byte_setWidth_inj {a b : Byte} (h : a.setWidth 16 = b.setWidth 16) : a = b := by
  have := congrArg (BitVec.setWidth 8) h
  simpa using this

/-- R103: the checksum is the complement of the sum, so it determines the sum. -/
theorem byteSum_eq_of_checksum16_eq {x y : List Byte} (h : checksum16 x = checksum16 y) :
    byteSum x = byteSum y := by
  have hx (z : List Byte) : byteSum z = 0xFFFF#16 - checksum16 z := by
    rw [checksum16, sub_sub_self]
  rw [hx, hx, h]

/-- Replacing one byte by another changes the checksum. -/
theorem checksum16_set_ne {x : List Byte} {i : Nat} {v : Byte} (h : i < x.length)
    (hv : v ≠ x.getD i 0) : checksum16 (x.set i v) ≠ checksum16 x := by
  intro heq
  have hsum := byteSum_set h v
  rw [byteSum_eq_of_checksum16_eq heq, BitVec.add_right_inj] at hsum
  exact hv (byte_setWidth_inj hsum).symm

/-- Flipping one bit of a byte gives another byte. -/
theorem flip_bit_ne (b : Byte) {k : Nat} (hk : k < 8) : b ^^^ (1#8 <<< k) ≠ b := by
  intro h
  have hbit := congrArg (fun x : Byte => x.getLsbD k) h
  simp [hk] at hbit

theorem runInstrs_ckadd (bytes : List Byte) (s : State) :
    ∃ r, runInstrs (bytes.map .ckadd) s =
      .next { s with ck := s.ck + byteSum bytes, result := r } := by
  induction bytes generalizing s with
  | nil => exact ⟨s.result, by rw [byteSum_nil, add_zero]; rfl⟩
  | cons b bytes ih =>
    obtain ⟨r, hr⟩ := ih (respond errSuccess false 0 { s with ck := s.ck + b.setWidth 16 })
    refine ⟨r, ?_⟩
    rw [List.map_cons, runInstrs_cons_of_next (exec_ckadd b s), hr, byteSum_cons, ← BitVec.add_assoc]
    rfl

/-- R108: the sequence answers the checksum of the bytes. -/
theorem runInstrs_cksum (bytes : List Byte) (s : State) :
    runInstrs (cksum bytes) s =
      .next (respond errSuccess false ((checksum16 bytes).setWidth 32) { s with ck := byteSum bytes }) := by
  obtain ⟨r, hr⟩ := runInstrs_ckadd bytes (respond errSuccess false 0 { s with ck := 0 })
  have hsum : (0 : Half) + byteSum bytes = byteSum bytes := zero_add _
  rw [respond_ck, hsum] at hr
  rw [cksum, List.append_assoc, List.singleton_append, runInstrs_cons_of_next (exec_ckclr s),
    runInstrs_append_of_next hr, runInstrs_cons_of_next (exec_ckget _)]
  rfl

end Sys2Proof.Machine

namespace Sys2Proof.Claim

open Sys2Proof.Machine

theorem byteTotal_append (x y : List Byte) : byteTotal (x ++ y) = byteTotal x + byteTotal y := by
  simp [byteTotal]

theorem byteTotal_replicate (n : Nat) (b : Byte) : byteTotal (List.replicate n b) = n * b.toNat := by
  simp [byteTotal]

theorem byteTotal_perm {x y : List Byte} (h : x.Perm y) : byteTotal x = byteTotal y :=
  (h.map BitVec.toNat).sum_eq

/-- The checksum of equal bytes, in numbers. -/
theorem checksum16_replicate_toNat (n : Nat) (b : Byte) :
    (checksum16 (List.replicate n b)).toNat = 65535 - n * b.toNat % 65536 := by
  rw [checksum16_toNat, byteTotal_replicate]

/-- Settles O12: the checksum is the complement of a sum of bytes; the sum is commutative, additive under
concatenation, and determines each byte by the others. -/
theorem checksumLaws : Obligations.ChecksumLaws := by
  refine ⟨fun x y => congrArg checksum16, fun x i k hi hk => ?bit, fun x y h => ?perm, fun x y => ?append⟩
  case bit => exact checksum16_set_ne hi (flip_bit_ne _ hk)
  case perm =>
    apply BitVec.eq_of_toNat_eq
    rw [checksum16_toNat, checksum16_toNat, byteTotal_perm h]
  case append =>
    rw [checksum16_toNat, checksum16_toNat, checksum16_toNat, byteTotal_append]
    omega

/-- Settles O13: the sums of equal bytes, and for `k` the list of `65535 - k` ones. -/
theorem checksumCorners : Obligations.ChecksumCorners := by
  refine ⟨rfl, fun v => ?single, ?wrap, ?pastWrap,
    fun k => ⟨List.replicate (65535 - k.toNat) 1, ?every⟩⟩
  case single =>
    have hv := v.isLt
    have h := checksum16_replicate_toNat 1 v
    rwa [Nat.one_mul, Nat.mod_eq_of_lt (by omega)] at h
  case wrap => exact BitVec.eq_of_toNat_eq (checksum16_replicate_toNat 257 0xFF)
  case pastWrap => exact BitVec.eq_of_toNat_eq (checksum16_replicate_toNat 258 0xFF)
  case every =>
    have hk := k.isLt
    apply BitVec.eq_of_toNat_eq
    rw [checksum16_replicate_toNat]
    show 65535 - (65535 - k.toNat) * 1 % 65536 = k.toNat
    omega

/-- Settles O15: `runInstrs_cksum` says where the sequence ends. -/
theorem portComputesTheChecksum : Obligations.PortComputesTheChecksum :=
  fun bytes s => ⟨_, runInstrs_cksum bytes s, rfl, rfl⟩

end Sys2Proof.Claim
end

section
/-! SUPPORT. Which operation writes what (10_state.md R20, 20_memory.md R51), read off what each operation can
do; and the two receive flushes and DESTROY as writers of the receive side (R65). -/

namespace Sys2Proof.Machine

/-- A CONSTRUCT that goes on has failed a check, or its writes ended in `framed`. -/
theorem execConstruct_next_framed {s t : State} (h : execConstruct s = .next t) :
    (constructFails s = true ∧ t = respond (constructErr s) false 0 (withTxError s)) ∨
    (constructFails s = false ∧ ∃ u, writeFrame (withTxError s) = .ok u ∧ t = framed s u.tx.mem) := by
  refine (execConstruct_next h).imp_right fun ⟨hc, _⟩ => ⟨hc, ?_⟩
  obtain ⟨u, hu, hexec⟩ := exec_construct_of_ready hc
  exact ⟨u, hu, Host.Outcome.next.inj (h.symm.trans hexec)⟩

/-- DESTROY and the flushes: refused without storage, and with it they cannot fail. -/
theorem needStorage_succeed_next {s t u : State} (h : needStorage s (.next (succeed u)) = .next t) :
    (s.gen = false ∧ t = respond ErrKind.memory.mask false 0 s) ∨
    (s.gen = true ∧ t = respond errSuccess false 0 u) :=
  (needStorage_next h).imp_right fun ⟨hg, hu⟩ => ⟨hg, (Host.Outcome.next.inj hu).symm⟩

theorem Buffer.eq_of_fields {b c : Buffer} (hlen : b.len = c.len) (hidx : b.idx = c.idx)
    (hmem : b.mem = c.mem) : b = c := by
  cases b; cases c; cases hlen; cases hidx; cases hmem; rfl

/-- The operations that allocate or release storage: the writers of `gen` and of the capacities (R20). -/
def movesStorage : Instr → Bool
  | .generate _ => true
  | .destroy => true
  | _ => false

/-- The writers of the send buffer (R20, R51). -/
def writesTx : Instr → Bool
  | .flushtx => true
  | .flushboth => true
  | .txpay _ _ => true
  | .construct => true
  | i => movesStorage i

/-- The writers of the receive buffer and of `asm` (R20, R51). -/
def writesRx : Instr → Bool
  | .flushrx => true
  | .flushboth => true
  | .rxbyte _ => true
  | i => movesStorage i

end Sys2Proof.Machine

namespace Sys2Proof.Claim

open Sys2Proof.Machine

/-- Settles O46: each way an operation can go on is an explicit update, and the update names the fields it
writes. -/
theorem writersOfEachRegister : Obligations.WritersOfEachRegister := by
  intro i s t h
  cases i with
  | generate n => obtain ⟨-, -, rfl⟩ | ⟨-, rfl⟩ := execGenerate_next h <;> simp
  | destroy | flushtx | flushrx | flushboth =>
    obtain ⟨-, rfl⟩ | ⟨-, rfl⟩ := needStorage_succeed_next h <;> simp
  | rxbyte b => obtain ⟨k, -, rfl⟩ | ⟨a, done, -, -, -, rfl⟩ := execRxbyte_next h <;> simp [appended]
  | parse => obtain ⟨-, rfl⟩ | ⟨-, -, rfl⟩ := execParse_next h <;> rw [recordParse_eq] <;> simp
  | txpay idx b => obtain ⟨-, rfl⟩ | ⟨-, -, rfl⟩ := execTxpay_next h <;> simp
  | construct =>
    obtain ⟨-, rfl⟩ | ⟨-, u, -, rfl⟩ := execConstruct_next_framed h
    · simp [withTxError]
    · simp [framed]
  | rdreg sel => obtain ⟨-, rfl⟩ | ⟨r, v, -, -, rfl⟩ := execRdreg_next h <;> simp
  | rxrd idx | txrd idx => obtain ⟨-, rfl⟩ | ⟨-, -, -, rfl⟩ := readBelowCursor_next h <;> simp
  | txmod v | txcmd v | txlen v | txflags v | ckclr | ckadd b | ckget => cases h; simp

/-! ### What follows for one register or buffer -/

section
variable {i : Instr} {s t : State} (h : exec i s = .next t)
include h

theorem exec_keeps_cfg : t.cfg = s.cfg := by
  obtain ⟨-, -, -, hcfg, -⟩ := writersOfEachRegister i s t h
  exact hcfg

/-- An operation that is no writer of the send buffer leaves it as it was. -/
theorem exec_keeps_tx (hi : writesTx i = false) : t.tx = s.tx ∧ t.epoch = s.epoch := by
  obtain ⟨hkept, -⟩ := writersOfEachRegister i s t h
  obtain ⟨-, hlen, -, hepoch, hidx, hmem, -⟩ :=
    hkept (by rintro n rfl; cases hi) (by rintro rfl; cases hi)
  have hidx := hidx (by rintro rfl; cases hi) (by rintro rfl; cases hi) (by rintro rfl; cases hi)
  have hmem := hmem (by rintro rfl; cases hi) (by rintro k b rfl; cases hi)
  exact ⟨Buffer.eq_of_fields hlen hidx hmem, hepoch⟩

/-- An operation that is no writer of the receive buffer leaves it and the assembler as they were. -/
theorem exec_keeps_rx (hi : writesRx i = false) :
    t.rx = s.rx ∧ t.asm = s.asm ∧ t.epoch = s.epoch := by
  obtain ⟨hkept, -⟩ := writersOfEachRegister i s t h
  obtain ⟨-, -, hlen, hepoch, -, -, hcursor, hmem⟩ :=
    hkept (by rintro n rfl; cases hi) (by rintro rfl; cases hi)
  obtain ⟨hidx, hasm⟩ := hcursor (by rintro b rfl; cases hi) (by rintro rfl; cases hi)
    (by rintro rfl; cases hi)
  have hmem := hmem (by rintro b rfl; cases hi)
  exact ⟨Buffer.eq_of_fields hlen hidx hmem, hasm, hepoch⟩

theorem exec_keeps_txError (hcon : i ≠ .construct) (hdes : i ≠ .destroy) :
    t.txp.error = s.txp.error := by
  obtain ⟨-, hkept, -⟩ := writersOfEachRegister i s t h
  obtain ⟨-, -, -, -, htx, -⟩ := hkept hdes
  exact htx hcon

theorem exec_keeps_rxp (hparse : i ≠ .parse) (hdes : i ≠ .destroy) : t.rxp = s.rxp := by
  obtain ⟨-, hkept, -⟩ := writersOfEachRegister i s t h
  obtain ⟨-, -, -, -, -, hrx⟩ := hkept hdes
  exact hrx hparse

end

/-- What reset, the command port, IllegalCommand and every operation keep, every step keeps. -/
theorem step_keeps {P : State → Prop} (hreset : ∀ s, P s → P (resetEvent s))
    (hport : ∀ s p, P s → P { s with pending := p }) (hillegal : ∀ s w, P s → P (raiseIllegal w s))
    (hexec : ∀ i s t, P s → exec i s = .next t → P t) {s t : State} (hs : P s) (h : step s = .next t) :
    P t := by
  have htaken (rest : List Input) : P { s with pending := rest } := hport s rest hs
  obtain ⟨-, rfl⟩ | ⟨rest, -, rfl⟩ | ⟨w, rest, i, -, -, hi⟩ | ⟨w, rest, -, -, -, rfl⟩ :=
    step_next h
  · exact hs
  · exact hreset _ (htaken rest)
  · exact hexec i _ t (htaken rest) hi
  · exact hillegal _ w (htaken rest)

/-- Settles O47: reset keeps the configuration explicitly, and no operation writes it. -/
theorem configurationIsNeverTouched : Obligations.ConfigurationIsNeverTouched :=
  fun s _ => step_keeps (P := fun u => u.cfg = s.cfg) (fun _ => id) (fun _ _ => id)
    (fun _ _ => id) (fun _ _ _ hs hi => (exec_keeps_cfg hi).trans hs) rfl

/-! ### The error registers (R28) -/

theorem execConstruct_handsBack {s t : State} (h : execConstruct s = .next t) :
    handsBack t t.txp.error false 0 := by
  obtain ⟨-, rfl⟩ | ⟨-, u, -, rfl⟩ := execConstruct_next_framed h <;> rfl

theorem execParse_handsBack {s t : State} (h : execParse s = .next t) :
    handsBack t t.rxp.error false 0 := by
  obtain ⟨-, rfl⟩ | ⟨-, -, rfl⟩ := execParse_next h <;> exact congrArg State.result (recordParse_eq _ _)

/-- Settles O45: the two writers hand back what they have written, and R20 names no other. -/
theorem errorRegistersHoldTheLastMask : Obligations.ErrorRegistersHoldTheLastMask := by
  refine fun i s t h => ⟨?_, ?_, exec_keeps_txError h, fun hparse hdes =>
    congrArg Packet.error (exec_keeps_rxp h hparse hdes)⟩
  · rintro rfl; exact execConstruct_handsBack h
  · rintro rfl; exact execParse_handsBack h

/-! ### Flushing the receive side (R65) -/

/-- After a receive flush or a DESTROY there is no storage or the cursor is 0. -/
theorem exec_unreaches_rx {i : Instr} {s t : State} (hi : i = .flushrx ∨ i = .flushboth ∨ i = .destroy)
    (h : exec i s = .next t) : t.gen = false ∨ t.rx.idx = 0 := by
  obtain rfl | rfl | rfl := hi
  all_goals
    obtain ⟨hg, rfl⟩ | ⟨-, rfl⟩ := needStorage_succeed_next h
    · exact .inl hg
    · exact .inr rfl

/-- Settles O54: no index lies below a cursor of 0, and no flush writes the receive Packet. -/
theorem flushMakesTheFrameUnreachable : Obligations.FlushMakesTheFrameUnreachable := by
  intro i s t idx hi h
  refine ⟨readBelowCursor_of_unreached (d := .rx) ?_, fun hdes => exec_keeps_rxp h ?_ hdes⟩
  · exact (exec_unreaches_rx hi h).imp_right fun h0 => by simp [h0]
  · obtain rfl | rfl | rfl := hi <;> decide

end Sys2Proof.Claim
end

section
/-! SUPPORT. The masks of every operation (60_exceptions.md R190), and that masks and responses stay sound
(30_encoding.md R78, R82). -/

namespace Sys2Proof.Claim

open Sys2Proof.Machine

/-- Every bit of the mask is one of `bits`. -/
abbrev maskWithin (bits err : Word) : Prop := err &&& ~~~ bits = 0

theorem success_within (bits : Word) : maskWithin bits errSuccess := BitVec.zero_and

theorem memory_within : maskWithin 0x01 ErrKind.memory.mask := by decide

theorem generateErr_within (n : Half) (s : State) : maskWithin 0x03 (generateErr n s) := by
  rw [generateErr_eq]
  split_ifs <;> decide

theorem constructErr_within (s : State) : maskWithin 0x0D (constructErr s) := by
  rw [constructErr_eq]
  split_ifs <;> decide

/-- The kinds parseFrame reports (42_decode.md R126). -/
theorem parseFrame_error_within {cfg : Config} {buf : List Byte} {k : ErrKind}
    (h : parseFrame cfg buf = .error k) : maskWithin 0xF9 k.mask := by
  have hchain := (validationOrder cfg buf).symm.trans h
  split_ifs at hchain <;> cases hchain <;> decide

theorem recordParse_within {s : State} {r : Except ErrKind Fields}
    (h : ∀ k, r = .error k → maskWithin 0xF9 k.mask) :
    maskWithin 0xF9 (recordParse s r).rxp.error := by
  cases r with
  | error k => exact h k rfl
  | ok f => exact success_within _

theorem execParse_within {s t : State} (h : execParse s = .next t) : maskWithin 0xF9 t.rxp.error := by
  obtain ⟨-, rfl⟩ | ⟨-, -, rfl⟩ := execParse_next h
  · exact recordParse_within fun k hk => by cases hk; decide
  · exact recordParse_within fun k => parseFrame_error_within

theorem execConstruct_within {s t : State} (h : execConstruct s = .next t) :
    maskWithin 0x0D t.txp.error := by
  obtain ⟨-, rfl⟩ | ⟨-, u, -, rfl⟩ := execConstruct_next_framed h
  · exact constructErr_within s
  · exact success_within _

theorem discarded_within {b : Byte} {s : State} {k : ErrKind} (h : Discarded b s k) :
    maskWithin 0x13 k.mask := by
  cases h <;> decide

theorem needStorage_within {s t u : State} {err data : Word} {done : Bool}
    (h : needStorage s (.next (succeed u)) = .next t) (ht : handsBack t err done data) :
    maskWithin 0x01 err := by
  obtain ⟨-, rfl⟩ | ⟨-, rfl⟩ := needStorage_succeed_next h <;> cases ht
  · exact memory_within
  · exact success_within _

theorem readBelowCursor_within {d : Dir} {idx : Half} {s t : State} {err data : Word} {done : Bool}
    (h : readBelowCursor d idx s = .next t) (ht : handsBack t err done data) : maskWithin 0x01 err := by
  obtain ⟨-, rfl⟩ | ⟨-, -, -, rfl⟩ := readBelowCursor_next h <;> cases ht
  · exact memory_within
  · exact success_within _

/-- The mask of each way an operation can go on. -/
theorem exec_within {i : Instr} {s t : State} {err data : Word} {done : Bool} (h : exec i s = .next t)
    (ht : handsBack t err done data) : maskWithin (possibleErrors i) err := by
  cases i with
  | generate n =>
    obtain ⟨-, -, rfl⟩ | ⟨-, rfl⟩ := execGenerate_next h <;> cases ht
    · exact success_within _
    · exact generateErr_within n s
  | destroy | flushtx | flushrx | flushboth => exact needStorage_within h ht
  | rxbyte b =>
    obtain ⟨k, hk, rfl⟩ | ⟨a, done, -, -, -, rfl⟩ := execRxbyte_next h <;> cases ht
    · exact discarded_within hk
    · exact success_within _
  | parse => cases ht.symm.trans (execParse_handsBack h); exact execParse_within h
  | construct => cases ht.symm.trans (execConstruct_handsBack h); exact execConstruct_within h
  | txpay idx b =>
    obtain ⟨-, rfl⟩ | ⟨-, -, rfl⟩ := execTxpay_next h <;> cases ht
    · exact memory_within
    · exact success_within _
  | rdreg sel =>
    obtain ⟨-, rfl⟩ | ⟨r, v, -, -, rfl⟩ := execRdreg_next h <;> cases ht
    exact success_within _
  | rxrd idx | txrd idx => exact readBelowCursor_within h ht
  | txmod v | txcmd v | txlen v | txflags v | ckclr | ckadd b | ckget =>
    cases h; cases ht; exact success_within _

/-- Settles O42: `exec_within`, for the response in the port. -/
theorem errorBitsOfEachOperation : Obligations.ErrorBitsOfEachOperation :=
  fun _ _ _ _ h hr => exec_within h hr

/-! ### Sound masks -/

/-- No row of the matrix has a bit above bit 7. -/
theorem possibleErrors_sound (i : Instr) : maskSound (possibleErrors i) := by
  cases i <;> simp [possibleErrors, maskSound]

/-- A mask within sound bits is sound. -/
theorem maskSound_of_within {bits err : Word} (hbits : maskSound bits) (h : maskWithin bits err) :
    maskSound err := by
  apply BitVec.eq_of_getLsbD_eq
  intro k hk
  have hk1 := congrArg (fun x : Word => x.getLsbD k) h
  have hk2 := congrArg (fun x : Word => x.getLsbD k) hbits
  simp only [BitVec.getLsbD_and, BitVec.getLsbD_not, hk, decide_true, Bool.true_and,
    BitVec.getLsbD_ofNat] at hk1 hk2 ⊢
  revert hk1 hk2
  cases err.getLsbD k <;> cases bits.getLsbD k <;> simp

/-- What any operation hands back is sound. -/
theorem exec_resultSound {i : Instr} {s t : State} (h : exec i s = .next t) :
    resultSound t.result = true := by
  cases exec_responseForm h with
  | mask err hm =>
    have hsound : maskSound err := maskSound_of_within (possibleErrors_sound i) (exec_within h hm)
    rw [hm]
    exact decide_eq_true ⟨hsound, fun hc => absurd hc Bool.false_ne_true⟩
  | value data _ hv => rw [hv]; exact decide_eq_true ⟨BitVec.zero_and, fun _ => rfl⟩
  | complete hc => rw [hc]; rfl
  | illegal w hw => rw [hw]; rfl

theorem execDestroy_packets {s t : State} (h : execDestroy s = .next t) :
    (t.txp = s.txp ∧ t.rxp = s.rxp) ∨ (t.txp = .zero ∧ t.rxp = .zero) := by
  obtain ⟨-, rfl⟩ | ⟨-, rfl⟩ := execDestroy_next h
  · exact .inl ⟨rfl, rfl⟩
  · exact .inr ⟨rfl, rfl⟩

/-- Every operation keeps the stored masks sound: its own mask replaces one, or none changes. -/
theorem exec_keeps_errorInv {i : Instr} {s t : State} (hs : ErrorInv s) (h : exec i s = .next t) :
    ErrorInv t := by
  obtain ⟨htx, hrx, -⟩ := hs
  by_cases hdes : i = .destroy
  · subst hdes
    obtain ⟨ht, hr⟩ | ⟨ht, hr⟩ := execDestroy_packets h
    · exact ⟨ht ▸ htx, hr ▸ hrx, exec_resultSound h⟩
    · exact ⟨ht ▸ BitVec.zero_and, hr ▸ BitVec.zero_and, exec_resultSound h⟩
  · refine ⟨?tx, ?rx, exec_resultSound h⟩
    case tx =>
      by_cases hcon : i = .construct
      · subst hcon; exact maskSound_of_within (by decide) (execConstruct_within h)
      · rw [exec_keeps_txError h hcon hdes]; exact htx
    case rx =>
      by_cases hparse : i = .parse
      · subst hparse; exact maskSound_of_within (by decide) (execParse_within h)
      · rw [exec_keeps_rxp h hparse hdes]; exact hrx

/-- The reset state holds no mask and has handed back nothing. -/
theorem errorInv_resetEvent (s : State) : ErrorInv (resetEvent s) :=
  ⟨BitVec.zero_and, BitVec.zero_and, rfl⟩

/-- Settles O52: operations by `exec_keeps_errorInv`; a step that is none stores no mask and hands back no
response. -/
theorem stepKeepsTheErrorMasks : Obligations.StepKeepsTheErrorMasks :=
  fun _ _ => step_keeps (fun s _ => errorInv_resetEvent s) (fun _ _ => id)
    (fun _ _ ⟨htx, hrx, _⟩ => ⟨htx, hrx, rfl⟩) (fun _ _ _ => exec_keeps_errorInv)

end Sys2Proof.Claim
end

section
/-! SUPPORT. The two buffers stay sound (10_state.md R22, R23, 20_memory.md R50): what each writer of a buffer
keeps, and that no step breaks it. -/

namespace Sys2Proof.Machine

/-! ### One buffer -/

theorem Buffer.sound_fresh (n : Half) : Buffer.Sound ⟨n, 0, []⟩ :=
  ⟨Memory.wf_nil, by simp, Nat.zero_le _⟩

theorem Buffer.sound_empty : Buffer.Sound .empty := Buffer.sound_fresh 0

theorem Buffer.Sound.rewind {b : Buffer} (h : b.Sound) : Buffer.Sound ⟨b.len, 0, b.mem⟩ := by
  obtain ⟨hwf, hcells, -⟩ := h
  exact ⟨hwf, hcells, Nat.zero_le _⟩

/-- A write below the capacity, with any cursor within it. -/
theorem Buffer.Sound.write {b : Buffer} (h : b.Sound) {i : Nat} (hi : i < b.len.toNat) (v : Byte)
    {idx : Half} (hidx : idx.toNat ≤ b.len.toNat) : Buffer.Sound ⟨b.len, idx, b.mem.write i v⟩ := by
  obtain ⟨hwf, hcells, -⟩ := h
  refine ⟨Memory.wf_write hwf i v, fun c hc => ?_, hidx⟩
  obtain rfl | hc := Memory.mem_write hc
  · exact hi
  · exact hcells c hc

/-- The send buffer a CONSTRUCT leaves. -/
theorem sound_framed {s u : State} (h : s.tx.Sound) (hc : constructFails s = false)
    (hu : writeFrame (withTxError s) = .ok u) : (framed s u.tx.mem).tx.Sound := by
  obtain ⟨hwf, hcells, -⟩ := h
  obtain ⟨-, -, hfit, -⟩ := (constructFails_eq_false_iff s).mp hc
  refine ⟨(writeFrame_rewritten hc hu).wf hwf, fun c hc => ?cells, ?cursor⟩
  case cells =>
    have hsome := (Memory.lookup_isSome_iff u.tx.mem c.1).mpr ⟨c, hc, rfl⟩
    rw [writeFrame_isSome hu, Bool.or_eq_true, decide_eq_true_iff] at hsome
    obtain ⟨hlt, -⟩ | hold := hsome
    · exact Nat.lt_of_lt_of_le hlt hfit
    · obtain ⟨e, he, hec⟩ := (Memory.lookup_isSome_iff s.tx.mem c.1).mp hold
      exact hec ▸ hcells e he
  case cursor => exact (Nat.mod_le _ _).trans hfit

/-! ### The pair -/

theorem StorageInv.congr {s t : State} (h : StorageInv s) (hgen : t.gen = s.gen) (htx : t.tx = s.tx)
    (hrx : t.rx = s.rx) : StorageInv t := by
  rw [StorageInv, hgen, htx, hrx]
  exact h

theorem storageInv_of_generated {t : State} (hg : t.gen = true) (htx : t.tx.Sound) (hrx : t.rx.Sound)
    (hlen : t.tx.len = t.rx.len) : StorageInv t :=
  ⟨htx, hrx, hlen, fun h => absurd (hg.symm.trans h) (by decide)⟩

theorem storageInv_of_released {t : State} (htx : t.tx = .empty) (hrx : t.rx = .empty) :
    StorageInv t := by
  rw [StorageInv, htx, hrx]
  exact ⟨Buffer.sound_empty, Buffer.sound_empty, rfl, fun _ => ⟨rfl, rfl⟩⟩

/-- Every operation keeps the storage invariant: a refused writer moves nothing, the others move one buffer
within its capacity or replace both. -/
theorem exec_keeps_storage {i : Instr} {s t : State} (hs : StorageInv s) (h : exec i s = .next t) :
    StorageInv t := by
  obtain ⟨htx, hrx, hlen, -⟩ := id hs
  cases i with
  | generate n =>
    obtain ⟨-, -, rfl⟩ | ⟨-, rfl⟩ := execGenerate_next h
    · exact storageInv_of_generated rfl (Buffer.sound_fresh n) (Buffer.sound_fresh n) rfl
    · exact hs.congr rfl rfl rfl
  | destroy =>
    obtain ⟨-, rfl⟩ | ⟨-, rfl⟩ := execDestroy_next h
    · exact hs.congr rfl rfl rfl
    · exact storageInv_of_released rfl rfl
  | flushtx =>
    obtain ⟨-, rfl⟩ | ⟨hg, rfl⟩ := execFlushtx_next h
    · exact hs.congr rfl rfl rfl
    · exact storageInv_of_generated hg htx.rewind hrx hlen
  | flushrx =>
    obtain ⟨-, rfl⟩ | ⟨hg, rfl⟩ := execFlushrx_next h
    · exact hs.congr rfl rfl rfl
    · exact storageInv_of_generated hg htx hrx.rewind hlen
  | flushboth =>
    obtain ⟨-, rfl⟩ | ⟨hg, rfl⟩ := execFlushboth_next h
    · exact hs.congr rfl rfl rfl
    · exact storageInv_of_generated hg htx.rewind hrx.rewind hlen
  | rxbyte b =>
    obtain ⟨k, -, rfl⟩ | ⟨a, done, hg, hroom, -, rfl⟩ := execRxbyte_next h
    · exact hs.congr rfl rfl rfl
    · exact storageInv_of_generated hg htx (hrx.write hroom b ((appended_idx hroom b).trans_le hroom)) hlen
  | txpay idx b =>
    obtain ⟨-, rfl⟩ | ⟨hg, hin, rfl⟩ := execTxpay_next h
    · exact hs.congr rfl rfl rfl
    · obtain ⟨-, -, hidx⟩ := id htx
      exact storageInv_of_generated hg (htx.write hin b hidx) hrx hlen
  | construct =>
    obtain ⟨-, rfl⟩ | ⟨hc, u, hu, rfl⟩ := execConstruct_next_framed h
    · exact hs.congr rfl rfl rfl
    · obtain ⟨hg, -⟩ := (constructFails_eq_false_iff s).mp hc
      exact storageInv_of_generated hg (sound_framed htx hc hu) hrx hlen
  | parse | txmod v | txcmd v | txlen v | txflags v | rdreg sel | rxrd idx | txrd idx | ckclr | ckadd b
  | ckget =>
    exact hs.congr (exec_keeps_gen h (by simp) (by simp)) (Claim.exec_keeps_tx h rfl).1
      (Claim.exec_keeps_rx h rfl).1

end Sys2Proof.Machine

namespace Sys2Proof.Claim

open Sys2Proof.Machine

/-- Settles O49: reset releases the storage, every operation keeps the invariant, and a port moves no
buffer. -/
theorem stepKeepsStorage : Obligations.StepKeepsStorage :=
  fun _ _ => step_keeps (fun _ _ => storageInv_of_released rfl rfl) (fun _ _ => id) (fun _ _ => id)
    (fun _ _ _ => exec_keeps_storage)

end Sys2Proof.Claim
end

section
/-! SUPPORT. The assembler and its cursor stay tied (10_state.md R32), the bytes collected stay written
(20_memory.md R53), and the send cursor stays 0 or the length of a frame (R25). -/

namespace Sys2Proof.Machine

/-! ### The assembler state by the cursor -/

/-- The range of `rx.idx` in which each assembler state holds, for a declared length `l` (R32). -/
def AsmFits (n l : Nat) : Asm → Prop
  | .awaitStart => n = 0
  | .collectingHeader => 1 ≤ n ∧ n ≤ 4
  | .collectingPayload => 5 ≤ n ∧ n < 5 + l
  | .collectingTail => 5 ≤ n ∧ 5 + l ≤ n ∧ n < 12 + l
  | .complete => 5 ≤ n ∧ n = 12 + l

/-- The state whose range a cursor is in, up to the end of the frame. -/
def asmAt (n l : Nat) : Asm :=
  if n = 0 then .awaitStart
  else if n ≤ 4 then .collectingHeader
  else if n < 5 + l then .collectingPayload
  else if n < 12 + l then .collectingTail
  else .complete

theorem AsmFits.eq_asmAt {n l : Nat} {a : Asm} (h : AsmFits n l a) : a = asmAt n l := by
  rw [asmAt]
  cases a with
  | awaitStart => exact (if_pos h).symm
  | collectingHeader =>
    obtain ⟨h1, h4⟩ := h
    rw [if_neg (by omega), if_pos h4]
  | collectingPayload =>
    obtain ⟨h5, hl⟩ := h
    rw [if_neg (by omega), if_neg (by omega), if_pos hl]
  | collectingTail =>
    obtain ⟨h5, hl, h12⟩ := h
    rw [if_neg (by omega), if_neg (by omega), if_neg (by omega), if_pos h12]
  | complete =>
    obtain ⟨h5, h12⟩ := h
    rw [if_neg (by omega), if_neg (by omega), if_neg (by omega), if_neg (by omega)]

/-- The ranges are disjoint. -/
theorem AsmFits.unique {n l : Nat} {a b : Asm} (ha : AsmFits n l a) (hb : AsmFits n l b) : a = b :=
  ha.eq_asmAt.trans hb.eq_asmAt.symm

/-- No range goes past the end of the frame. -/
theorem AsmFits.le {n l : Nat} {a : Asm} (h : AsmFits n l a) : n ≤ 12 + l := by
  cases a <;> simp only [AsmFits] at h <;> omega

/-- R32 says that `asm` is the state whose range the cursor is in. -/
theorem assemblerInv_iff (s : State) :
    AssemblerInv s ↔ AsmFits s.rx.idx.toNat (rxLength s) s.asm ∧
      (1 ≤ s.rx.idx.toNat → s.cell .rx 0 = symStart) ∧ s.rx.WrittenBelow s.rx.idx.toNat := by
  constructor
  · rintro ⟨hstart, hheader, hpayload, htail, hcomplete, hcell, hwritten⟩
    refine ⟨?_, hcell, hwritten⟩
    cases ha : s.asm with
    | awaitStart => exact hstart.mp ha
    | collectingHeader => exact hheader.mp ha
    | collectingPayload => exact hpayload.mp ha
    | collectingTail => exact htail.mp ha
    | complete => exact hcomplete.mp ha
  · rintro ⟨hfits, hcell, hwritten⟩
    have hiff (a : Asm) : s.asm = a ↔ AsmFits s.rx.idx.toNat (rxLength s) a :=
      ⟨fun h => h ▸ hfits, hfits.unique⟩
    exact ⟨hiff _, hiff _, hiff _, hiff _, hiff _, hcell, hwritten⟩

theorem AssemblerInv.fits {s : State} (h : AssemblerInv s) :
    AsmFits s.rx.idx.toNat (rxLength s) s.asm :=
  ((assemblerInv_iff s).mp h).1

/-- A flushed receive side is tied. -/
theorem assemblerInv_of_start {s : State} (ha : s.asm = .awaitStart) (hidx : s.rx.idx.toNat = 0) :
    AssemblerInv s := by
  rw [assemblerInv_iff, ha, hidx]
  exact ⟨rfl, fun h => absurd h (by decide), fun i hi => absurd hi (Nat.not_lt_zero i)⟩

theorem rxLength_congr {s t : State} (hrx : t.rx.mem = s.rx.mem) (hepoch : t.epoch = s.epoch) :
    rxLength t = rxLength s := by
  have hcell (i : Nat) : t.cell .rx i = s.cell .rx i := cell_congr (d := .rx) hrx hepoch i
  rw [rxLength, hcell, hcell, rxLength]

theorem AssemblerInv.congr {s t : State} (h : AssemblerInv s) (hrx : t.rx = s.rx) (hasm : t.asm = s.asm)
    (hepoch : t.epoch = s.epoch) : AssemblerInv t := by
  have hmem : t.rx.mem = s.rx.mem := congrArg Buffer.mem hrx
  rw [assemblerInv_iff, hrx, hasm, rxLength_congr hmem hepoch, cell_congr (d := .rx) hmem hepoch]
  exact (assemblerInv_iff s).mp h

/-- Where an accepted byte leads is where the cursor then stands (R135). -/
theorem Accepted.fits {b : Byte} {s : State} {a : Asm} {done : Bool} (hs : AssemblerInv s)
    (hroom : s.rx.idx.toNat < s.rx.len.toNat) (h : Accepted b s a done) :
    AsmFits (s.rx.idx.toNat + 1) (rxLength (appended b s)) a := by
  have hfits := hs.fits
  have hidx := appended_idx hroom b
  have hl (h5 : 5 ≤ s.rx.idx.toNat) := rxLength_appended_of_five_le_idx h5 b
  cases h with
  | start ha hb =>
    rw [ha, AsmFits] at hfits
    exact ⟨by omega, by omega⟩
  | header ha hi =>
    rw [ha, AsmFits] at hfits
    exact ⟨by omega, by omega⟩
  | lengthKnown ha hi =>
    have hiff := be16_eq_zero_iff_rxLength_eq_zero (appended b s)
    split
    · have hzero := hiff.mp ‹_›
      exact ⟨by omega, by omega, by omega⟩
    · have hpos := mt hiff.mpr ‹_›
      exact ⟨by omega, by omega⟩
  | payload ha hi | payloadEnd ha hi | tail ha hi | frameEnd ha hi =>
    rw [ha, AsmFits] at hfits
    rw [← rxLength, hl hfits.1] at hi
    rw [hl hfits.1]
    simp only [AsmFits]
    omega

/-- An accepted byte keeps the assembler tied. -/
theorem AssemblerInv.accepted {b : Byte} {s : State} {a : Asm} {done : Bool} (hs : AssemblerInv s)
    (hroom : s.rx.idx.toNat < s.rx.len.toNat) (h : Accepted b s a done) :
    AssemblerInv { appended b s with asm := a } := by
  obtain ⟨hfits, hcell, hwritten⟩ := (assemblerInv_iff s).mp hs
  have hidx := appended_idx hroom b
  rw [assemblerInv_iff]
  refine ⟨?fits, fun _ => ?cell, fun i hi => ?written⟩
  case fits =>
    show AsmFits (appended b s).rx.idx.toNat (rxLength (appended b s)) a
    rw [hidx]
    exact h.fits hs hroom
  case cell =>
    show (appended b s).cell .rx 0 = symStart
    rw [cell_appended]
    by_cases h0 : s.rx.idx.toNat = 0
    · have hb : b = symStart := by
        have hasm : s.asm = .awaitStart := hs.1.mpr h0
        cases h with
        | start _ hb => exact hb
        | header ha | lengthKnown ha | payload ha | payloadEnd ha | tail ha | frameEnd ha =>
          cases ha.symm.trans hasm
      rw [if_pos ⟨rfl, h0.symm⟩, hb]
    · rw [if_neg (by omega)]
      exact hcell (by omega)
  case written =>
    have hi : i < s.rx.idx.toNat + 1 := hidx ▸ hi
    show ((s.rx.mem.write s.rx.idx.toNat b).lookup i).isSome = true
    rw [Memory.isSome_lookup_write, Bool.or_eq_true, decide_eq_true_iff]
    exact (Nat.lt_succ_iff_lt_or_eq.mp hi).symm.imp_right (hwritten i)

/-- Every operation keeps the assembler tied. -/
theorem exec_keeps_assembler {i : Instr} {s t : State} (hs : AssemblerInv s) (h : exec i s = .next t) :
    AssemblerInv t := by
  cases i with
  | generate n =>
    obtain ⟨-, -, rfl⟩ | ⟨-, rfl⟩ := execGenerate_next h
    · exact assemblerInv_of_start rfl rfl
    · exact hs.congr rfl rfl rfl
  | destroy | flushrx | flushboth =>
    obtain ⟨-, rfl⟩ | ⟨-, rfl⟩ := needStorage_succeed_next h
    · exact hs.congr rfl rfl rfl
    · exact assemblerInv_of_start rfl rfl
  | rxbyte b =>
    obtain ⟨k, -, rfl⟩ | ⟨a, done, -, hroom, hacc, rfl⟩ := execRxbyte_next h
    · exact hs.congr rfl rfl rfl
    · exact (hs.accepted hroom hacc).congr rfl rfl rfl
  | flushtx | parse | txmod v | txcmd v | txlen v | txflags v | txpay idx b | construct | rdreg sel
  | rxrd idx | txrd idx | ckclr | ckadd b | ckget =>
    obtain ⟨hrx, hasm, hepoch⟩ := Claim.exec_keeps_rx h rfl
    exact hs.congr hrx hasm hepoch

/-! ### The frame in the send buffer -/

theorem SendInv.congr {s t : State} (h : SendInv s) (htx : t.tx = s.tx) (hepoch : t.epoch = s.epoch) :
    SendInv t := by
  have hcell (i : Nat) : t.cell .tx i = s.cell .tx i :=
    cell_congr (d := .tx) (congrArg Buffer.mem htx) hepoch i
  rw [SendInv, txLength, hcell, hcell, hcell, htx]
  exact h

/-- The frame CONSTRUCT leaves declares its own length and its cells are written (R25). -/
theorem sendInv_framed {s u : State} (hc : constructFails s = false)
    (hu : writeFrame (withTxError s) = .ok u) : SendInv (framed s u.tx.mem) := by
  obtain ⟨-, -, hfit, -⟩ := (constructFails_eq_false_iff s).mp hc
  have hlen := s.tx.len.isLt
  have hheader {i : Nat} (hi : i < 5) : (framed s u.tx.mem).cell .tx i =
      [symStart, s.txp.moduleId, s.txp.cmd, hi8 s.txp.payloadLen, lo8 s.txp.payloadLen].getD i 0 := by
    obtain ⟨v, hv, -, hcell⟩ := writeFrame_of_le (s := withTxError s) hfit
    cases hu.symm.trans hv
    exact (framed_cell hc hu i).trans ((hcell i).trans (if_pos hi))
  have hlength : txLength (framed s u.tx.mem) = s.txp.payloadLen.toNat := by
    rw [txLength, hheader (by decide), hheader (by decide)]
    exact congrArg BitVec.toNat (be16_hi8_lo8 _)
  refine .inr ⟨?cursor, hheader (by decide), fun i hi hout => ?written⟩
  case cursor => rw [hlength]; exact Nat.mod_eq_of_lt (by omega)
  case written =>
    rw [hlength] at hi hout
    exact (writeFrame_isSome hu i).trans (Bool.or_eq_true_iff.mpr (.inl (decide_eq_true ⟨hi, hout⟩)))

/-- Staging a payload byte does not reach the header, and unwrites nothing. -/
theorem SendInv.poke {s : State} (h : SendInv s) (k : Nat) (b : Byte) :
    SendInv (s.poke .tx (5 + k) b) := by
  have hcell {i : Nat} (hi : i < 5) : (s.poke .tx (5 + k) b).cell .tx i = s.cell .tx i := by
    rw [cell_poke, if_neg (by omega)]
  rw [SendInv, txLength, hcell (by decide), hcell (by decide), hcell (by decide), poke_tx_tx]
  refine h.imp_right fun ⟨hidx, hstart, hwritten⟩ => ⟨hidx, hstart, fun i hi hout => ?_⟩
  rw [Memory.isSome_lookup_write, Bool.or_eq_true]
  exact .inr (hwritten i hi hout)

/-- Every operation keeps the send cursor at 0 or at the length of a frame. -/
theorem exec_keeps_send {i : Instr} {s t : State} (hs : SendInv s) (h : exec i s = .next t) :
    SendInv t := by
  cases i with
  | generate n =>
    obtain ⟨-, -, rfl⟩ | ⟨-, rfl⟩ := execGenerate_next h
    · exact .inl rfl
    · exact hs.congr rfl rfl
  | destroy | flushtx | flushboth =>
    obtain ⟨-, rfl⟩ | ⟨-, rfl⟩ := needStorage_succeed_next h
    · exact hs.congr rfl rfl
    · exact .inl rfl
  | txpay idx b =>
    obtain ⟨-, rfl⟩ | ⟨-, -, rfl⟩ := execTxpay_next h
    · exact hs.congr rfl rfl
    · exact (hs.poke idx.toNat b).congr rfl rfl
  | construct =>
    obtain ⟨-, rfl⟩ | ⟨hc, u, hu, rfl⟩ := execConstruct_next_framed h
    · exact hs.congr rfl rfl
    · exact sendInv_framed hc hu
  | flushrx | rxbyte b | parse | txmod v | txcmd v | txlen v | txflags v | rdreg sel | rxrd idx | txrd idx
  | ckclr | ckadd b | ckget =>
    obtain ⟨htx, hepoch⟩ := Claim.exec_keeps_tx h rfl
    exact hs.congr htx hepoch

end Sys2Proof.Machine

namespace Sys2Proof.Claim

open Sys2Proof.Machine

/-- Settles O50: reset puts the assembler at its start, and every operation keeps it tied to the cursor. -/
theorem stepKeepsTheAssembler : Obligations.StepKeepsTheAssembler :=
  fun _ _ => step_keeps (fun _ _ => assemblerInv_of_start rfl rfl) (fun _ _ h => h.congr rfl rfl rfl)
    (fun _ _ h => h.congr rfl rfl rfl) (fun _ _ _ => exec_keeps_assembler)

/-- Settles O51: reset puts the send cursor at 0, and every operation keeps the frame below it. -/
theorem stepKeepsTheSendFrame : Obligations.StepKeepsTheSendFrame :=
  fun _ _ => step_keeps (fun _ _ => .inl rfl) (fun _ _ h => h.congr rfl rfl)
    (fun _ _ h => h.congr rfl rfl) (fun _ _ _ => exec_keeps_send)

/-- Settles O48: no storage, cursors at 0, nothing handed back. -/
theorem resetMeetsTheInvariants : Obligations.ResetMeetsTheInvariants :=
  ⟨storageInv_of_released rfl rfl, assemblerInv_of_start rfl rfl, .inl rfl,
    errorInv_resetEvent State.reset⟩

end Sys2Proof.Claim
end

section
/-! SUPPORT. RDREG (45_readout.md R161): the table of selectors and values, row by row, and the six values of
STATUS. -/

namespace Sys2Proof.Machine

/-- The number a register shows (R161), the derived ones included (10_state.md R26, R38, R39, R40). -/
def regNumber (s : State) : Reg → Nat
  | .status => (if s.gen then 1 else 0) + 2 * Claim.asmNumber s.asm
      + 16 * (if s.asm = .awaitStart then 0 else if s.asm = .complete then 2 else 1)
      + 64 * (if s.asm = .complete then 1 else 0)
  | .txLen => s.tx.len.toNat
  | .txIdx => s.tx.idx.toNat
  | .rxLen => s.rx.len.toNat
  | .rxIdx => s.rx.idx.toNat
  | .rxExpected => if 5 ≤ s.rx.idx.toNat then 12 + rxLength s else 0
  | .txpModule => s.txp.moduleId.toNat
  | .txpCmd => s.txp.cmd.toNat
  | .txpPaylen => s.txp.payloadLen.toNat
  | .txpFlags => s.txp.flags.toNat
  | .txpError => s.txp.error.toNat
  | .txpPaymax => s.tx.len.toNat - 12
  | .rxpModule => s.rxp.moduleId.toNat
  | .rxpCmd => s.rxp.cmd.toNat
  | .rxpPaylen => s.rxp.payloadLen.toNat
  | .rxpFlags => s.rxp.flags.toNat
  | .rxpError => s.rxp.error.toNat
  | .rxpPaymax => s.rx.len.toNat - 12
  | .ck => s.ck.toNat

theorem setWidth_eq_ofNat {w : Nat} (v : BitVec w) : v.setWidth 32 = BitVec.ofNat 32 v.toNat :=
  (BitVec.ofNat_toNat 32 v).symm

theorem word_eq_ofNat (v : Word) : v = BitVec.ofNat 32 v.toNat := by
  rw [← setWidth_eq_ofNat, BitVec.setWidth_eq]

/-- The bit fields of STATUS as one number. -/
theorem statusWord_eq (s : State) : statusWord s = BitVec.ofNat 32 (regNumber s .status) := by
  rw [statusWord, regNumber, rxComplete]
  cases s.gen <;> cases s.asm <;> rfl

theorem payloadMax_setWidth (s : State) (d : Dir) :
    (payloadMax s d).setWidth 32 = BitVec.ofNat 32 ((s.buffer d).len.toNat - 12) := by
  rw [setWidth_eq_ofNat]
  by_cases h : 12 ≤ (s.buffer d).len.toNat
  · rw [payloadMax_toNat h]
  · rw [payloadMax, if_neg (show ¬ lenOverhead ≤ _ from h), Nat.sub_eq_zero_of_le (by omega)]
    rfl

/-- The declared length is read only once five bytes are in, and then it lies within the buffer (R38). -/
theorem rxExpected_eq {s : State} (hs : StorageInv s) :
    rxExpected s = .ok (BitVec.ofNat 32 (regNumber s .rxExpected)) := by
  have hcursor := cursor_le_of_storageInv hs .rx
  rw [rxExpected, regNumber]
  by_cases h : 5 ≤ s.rx.idx.toNat
  · rw [if_pos (show lenHeader ≤ _ from h), if_pos h, declaredLen_of_lt (Nat.lt_of_lt_of_le h hcursor)]
    rfl
  · rw [if_neg (show ¬ lenHeader ≤ _ from h), if_neg h]
    rfl

/-- Every register shows its number. -/
theorem regValue_eq {s : State} (hs : StorageInv s) (r : Reg) :
    regValue s r = .ok (BitVec.ofNat 32 (regNumber s r)) := by
  cases r with
  | status => exact congrArg Except.ok (statusWord_eq s)
  | rxExpected => exact rxExpected_eq hs
  | txpPaymax => exact congrArg Except.ok (payloadMax_setWidth s .tx)
  | rxpPaymax => exact congrArg Except.ok (payloadMax_setWidth s .rx)
  | txpFlags | txpError | rxpFlags | rxpError => exact congrArg Except.ok (word_eq_ofNat _)
  | txLen | txIdx | rxLen | rxIdx | txpModule | txpCmd | txpPaylen | rxpModule | rxpCmd | rxpPaylen | ck =>
    exact congrArg Except.ok (setWidth_eq_ofNat _)

theorem exec_rdreg_of_listed {s : State} (hs : StorageInv s) {sel : Byte} {r : Reg}
    (hr : Reg.ofSel sel = some r) :
    exec (.rdreg sel) s = .next (respond errSuccess false (BitVec.ofNat 32 (regNumber s r)) s) := by
  show execRdreg sel s = _
  simp only [execRdreg, hr, regValue_eq hs r, faultOr_ok, succeedWith_eq]

theorem exec_rdreg_of_unlisted {sel : Byte} (hr : Reg.ofSel sel = none) (s : State) :
    exec (.rdreg sel) s = .next (raiseIllegal (encode (.rdreg sel)) s) := by
  show execRdreg sel s = _
  simp only [execRdreg, hr]

/-- Without storage the receive side is at its start. -/
theorem asm_of_notGenerated {s : State} (hs : StorageInv s) (ha : AssemblerInv s) (hg : s.gen = false) :
    s.asm = .awaitStart := by
  obtain ⟨-, -, -, hempty⟩ := hs
  obtain ⟨-, hrx⟩ := hempty hg
  exact ha.1.mpr (by rw [hrx]; rfl)

/-- 95_test_vectors.md section 2.7. -/
theorem status_mem {s : State} (hs : StorageInv s) (ha : AssemblerInv s) :
    BitVec.ofNat 32 (regNumber s .status) ∈ [0x00, 0x01, 0x13, 0x15, 0x17, (0x69 : Word)] := by
  rw [regNumber]
  cases hg : s.gen with
  | false => rw [asm_of_notGenerated hs ha hg]; decide
  | true => cases s.asm <;> decide

end Sys2Proof.Machine

namespace Sys2Proof.Claim

open Sys2Proof.Machine

/-- The table of R161 is that of the registers and their numbers. -/
theorem selectorValues_eq (s : State) :
    selectorValues s = Reg.all.map fun r => (r.selector, regNumber s r) := rfl

theorem ofSel_eq_none_of_unprinted {sel : Byte} (h : sel ∉ printedSelectors) : Reg.ofSel sel = none := by
  rw [← listedSelectors_printed, ← Reg.ofSel_isSome_iff] at h
  simpa using h

/-- Settles O38: each row of the table is a register, and an unprinted selector names none. -/
theorem rdregReturnsTheSelectedRegister : Obligations.RdregReturnsTheSelectedRegister := by
  refine fun s hs => ⟨fun p hp => ?_, fun sel h => ?_, rfl, listedSelectors_printed⟩
  · rw [selectorValues_eq] at hp
    obtain ⟨r, -, rfl⟩ := List.mem_map.mp hp
    exact ⟨rfl, exec_rdreg_of_listed hs (Reg.ofSel_selector r)⟩
  · exact exec_rdreg_of_unlisted (ofSel_eq_none_of_unprinted h) s

/-- Settles O41: without storage STATUS is 0, with storage each of the five assembler states gives one
value. -/
theorem statusTakesSixValues : Obligations.StatusTakesSixValues :=
  fun _ hs ha => ⟨_, status_mem hs ha, exec_rdreg_of_listed hs (Reg.ofSel_selector .status)⟩

end Sys2Proof.Claim
end

section
/-! SUPPORT. From a sound state every operation goes on (20_memory.md R54, 60_exceptions.md R180). -/

namespace Sys2Proof.Machine

/-- A byte with room goes where R135 says, unless the assembler is at its start and it is no start symbol, or
the frame is complete. -/
theorem exists_accepted {b : Byte} {s : State} (hstart : s.asm = .awaitStart → b = symStart)
    (hcomplete : s.asm ≠ .complete) : ∃ a done, Accepted b s a done := by
  cases ha : s.asm with
  | awaitStart => exact ⟨_, _, .start ha (hstart ha)⟩
  | collectingHeader =>
    by_cases hi : (appended b s).rx.idx.toNat = 5
    · exact ⟨_, _, .lengthKnown ha hi⟩
    · exact ⟨_, _, .header ha hi⟩
  | collectingPayload =>
    by_cases hi : (appended b s).rx.idx.toNat = 5 + rxLength (appended b s)
    · exact ⟨_, _, .payloadEnd ha hi⟩
    · exact ⟨_, _, .payload ha hi⟩
  | collectingTail =>
    by_cases hi : (appended b s).rx.idx.toNat = 12 + rxLength (appended b s)
    · exact ⟨_, _, .frameEnd ha hi⟩
    · exact ⟨_, _, .tail ha hi⟩
  | complete => exact absurd ha hcomplete

/-- A byte is discarded for a reason or accepted with room (R135). -/
theorem discarded_or_accepted (b : Byte) (s : State) :
    (∃ k, Discarded b s k) ∨
    (s.gen = true ∧ s.rx.idx.toNat < s.rx.len.toNat ∧ ∃ a done, Accepted b s a done) := by
  cases hg : s.gen with
  | false => exact .inl ⟨_, .notGenerated hg⟩
  | true =>
    by_cases hcomplete : s.asm = .complete
    · exact .inl ⟨_, .complete hg hcomplete⟩
    · by_cases hstart : s.asm = .awaitStart → b = symStart
      · by_cases hroom : s.rx.idx.toNat < s.rx.len.toNat
        · exact .inr ⟨rfl, hroom, exists_accepted hstart hcomplete⟩
        · exact .inl ⟨_, .full hg hcomplete hstart (Nat.le_of_not_lt hroom)⟩
      · obtain ⟨ha, hb⟩ := Classical.not_imp.mp hstart
        exact .inl ⟨_, .noStart hg ha hb⟩

theorem needStorage_progress (s u : State) : ∃ t, needStorage s (.next u) = .next t := by
  cases hg : s.gen with
  | false => exact ⟨_, needStorage_false hg _⟩
  | true => exact ⟨_, needStorage_true hg _⟩

theorem exec_rxbyte_progress {s : State} (ha : AssemblerInv s) (b : Byte) :
    ∃ t, exec (.rxbyte b) s = .next t := by
  obtain ⟨k, hk⟩ | ⟨hg, hroom, a, done, hacc⟩ := discarded_or_accepted b s
  · exact ⟨_, exec_rxbyte_of_discarded hk⟩
  · exact ⟨_, exec_rxbyte_of_accepted ha hg hroom hacc⟩

theorem exec_parse_progress {s : State} (hs : StorageInv s) : ∃ t, exec .parse s = .next t := by
  cases hg : s.gen with
  | false => exact ⟨_, exec_parse_of_notGenerated hg⟩
  | true => exact ⟨_, exec_parse_of_fits hg (cursor_le_of_storageInv hs .rx)⟩

theorem exec_txpay_progress (s : State) (idx : Half) (b : Byte) :
    ∃ t, exec (.txpay idx b) s = .next t := by
  by_cases hin : s.gen = true ∧ 5 + idx.toNat < s.tx.len.toNat
  · exact ⟨_, exec_txpay_of_inside hin.1 hin.2 b⟩
  · refine ⟨_, exec_txpay_of_outside ?_ b⟩
    rw [not_and_or, Bool.not_eq_true, Nat.not_lt] at hin
    exact hin

theorem exec_construct_progress (s : State) : ∃ t, exec .construct s = .next t := by
  cases hc : constructFails s with
  | true => exact ⟨_, execConstruct_fails hc⟩
  | false =>
    obtain ⟨u, -, hexec⟩ := exec_construct_of_ready hc
    exact ⟨_, hexec⟩

theorem exec_rdreg_progress {s : State} (hs : StorageInv s) (sel : Byte) :
    ∃ t, exec (.rdreg sel) s = .next t := by
  cases hr : Reg.ofSel sel with
  | none => exact ⟨_, exec_rdreg_of_unlisted hr s⟩
  | some r => exact ⟨_, exec_rdreg_of_listed hs hr⟩

theorem readBelowCursor_progress {s : State} (hs : StorageInv s) (d : Dir) (idx : Half) :
    ∃ t, readBelowCursor d idx s = .next t := by
  by_cases hin : s.gen = true ∧ idx.toNat < (s.buffer d).idx.toNat
  · exact ⟨_, readBelowCursor_of_reached hin.1 (cursor_le_of_storageInv hs d) hin.2⟩
  · refine ⟨_, readBelowCursor_of_unreached ?_⟩
    rw [not_and_or, Bool.not_eq_true, Nat.not_lt] at hin
    exact hin

/-- From a sound state every operation goes on. -/
theorem exec_progress {s : State} (hs : StorageInv s) (ha : AssemblerInv s) (i : Instr) :
    ∃ t, exec i s = .next t := by
  cases i with
  | generate n => exact ⟨_, rfl⟩
  | destroy | flushtx | flushrx | flushboth => exact needStorage_progress s _
  | rxbyte b => exact exec_rxbyte_progress ha b
  | parse => exact exec_parse_progress hs
  | txpay idx b => exact exec_txpay_progress s idx b
  | construct => exact exec_construct_progress s
  | rdreg sel => exact exec_rdreg_progress hs sel
  | rxrd idx | txrd idx => exact readBelowCursor_progress hs _ idx
  | txmod v | txcmd v | txlen v | txflags v | ckclr | ckadd b | ckget => exact ⟨_, rfl⟩

/-- So does every step. -/
theorem step_progress {s : State} (hs : StorageInv s) (ha : AssemblerInv s) : ∃ t, step s = .next t := by
  rw [step]
  cases taken s with
  | idle => exact ⟨_, rfl⟩
  | reset => exact ⟨_, rfl⟩
  | run i => exact exec_progress (s := dropInput s) hs (ha.congr rfl rfl rfl) i
  | illegal w => exact ⟨_, rfl⟩

end Sys2Proof.Machine

namespace Sys2Proof.Claim

open Sys2Proof.Machine

/-- Settles O53: a sound state steps to a sound state, so no number of steps stops. -/
theorem soundStatesNeverStop : Obligations.SoundStatesNeverStop := by
  intro s hs ha n
  induction n generalizing s with
  | zero => exact ⟨s, rfl⟩
  | succ n ih =>
    obtain ⟨t, ht⟩ := step_progress hs ha
    obtain ⟨u, hu⟩ := ih t (stepKeepsStorage s t hs ht) (stepKeepsTheAssembler s t ha ht)
    have hstep : Sys2Proof.core.step s = .next t := ht
    exact ⟨u, by simp only [Host.Core.run, hstep, hu]⟩

end Sys2Proof.Claim
end

section
/-! SUPPORT. parseFrame and frameEncode (41_encode.md R120, 42_decode.md R126, R131): a frame parses exactly
when it passes every check, an encoded one does, and a changed covered byte spoils the checksum. -/

namespace Sys2Proof.Claim

open Sys2Proof.Machine

/-- What parseFrame returns for a frame that passes its checks. -/
def frameFields (buf : List Byte) : Fields :=
  ⟨buf.getD 1 0, buf.getD 2 0, BitVec.ofNat 16 (frameLen buf),
    BitVec.ofNat 32 (2 ^ 24 * num buf (5 + frameLen buf) + 2 ^ 16 * num buf (6 + frameLen buf)
      + 2 ^ 8 * num buf (7 + frameLen buf) + num buf (8 + frameLen buf))⟩

theorem parseFrame_of_valid {cfg : Config} {buf : List Byte} (h : ValidFrame cfg buf) :
    parseFrame cfg buf = .ok (frameFields buf) := by
  obtain ⟨hlong, hstart, hmodule, hchecksum, hfinish⟩ := h
  rw [ChecksumHolds] at hchecksum
  rw [validationOrder cfg buf, if_neg (by omega), if_neg (not_not.mpr hstart),
    if_neg (not_not.mpr hmodule), if_neg (not_not.mpr hchecksum), if_neg (not_not.mpr hfinish)]
  rfl

theorem fields_of_ok {cfg : Config} {buf : List Byte} {r : Fields} (h : parseFrame cfg buf = .ok r) :
    r = frameFields buf :=
  Except.ok.inj (h.symm.trans (parseFrame_of_valid (validFrame_of_ok h)))

theorem frameLen_lt (buf : List Byte) : frameLen buf < 65536 := by
  have h3 := (buf.getD 3 0).isLt
  have h4 := (buf.getD 4 0).isLt
  simp only [frameLen, num]
  omega

/-! ### Encoded frames -/

section
variable {cfg : Config} {m c : Byte} {p : List Byte} {f : Word}

theorem validFrame_frameEncode (hm : m ∈ cfg.validModules) (hp : p.length ≤ 65535) :
    ValidFrame cfg (frameEncode m c p f) := by
  obtain ⟨hlen, hstart, hmodule, -, -, -, -, hchecksum, hfinish⟩ := frameFieldOffsets m c p f hp
  have hl := frameLen_frameEncode (m := m) (c := c) (f := f) hp
  refine ⟨by rw [hl, hlen], hstart, by rwa [hmodule], ?_, by rwa [hl]⟩
  rw [ChecksumHolds, hl]
  exact hchecksum.symm

theorem frameFields_frameEncode (hp : p.length ≤ 65535) :
    frameFields (frameEncode m c p f) = ⟨m, c, BitVec.ofNat 16 p.length, f⟩ := by
  obtain ⟨-, -, hmodule, hcmd, -, -, hflags, -⟩ := frameFieldOffsets m c p f hp
  rw [frameFields, frameLen_frameEncode hp, hmodule, hcmd, hflags, ← word_eq_ofNat]

/-- R120: decoding an encoded packet gives its fields back. -/
theorem parseFrame_frameEncode (hm : m ∈ cfg.validModules) (hp : p.length ≤ 65535) :
    parseFrame cfg (frameEncode m c p f) = .ok ⟨m, c, BitVec.ofNat 16 p.length, f⟩ := by
  rw [parseFrame_of_valid (validFrame_frameEncode hm hp), frameFields_frameEncode hp]

end

/-- Settles O30: an encoded frame passes every check, and its fields and payload stand at their offsets. -/
theorem parseInvertsEncode : Obligations.ParseInvertsEncode :=
  fun _ m c p f hm hp => ⟨parseFrame_frameEncode hm hp, frameEncode_payload m c p f⟩

/-! ### Changed covered bytes -/

section
variable {cfg : Config} {fr : List Byte} {r : Fields} {i : Nat} {b : Byte}

/-- The checksum does not hold once a covered byte, the length bytes aside, is another. -/
theorem not_checksumHolds_set (hlong : 12 + frameLen fr ≤ fr.length) (hck : ChecksumHolds fr)
    (h1 : 1 ≤ i) (h8 : i ≤ 8 + frameLen fr) (h3 : i ≠ 3) (h4 : i ≠ 4) (hb : b ≠ fr.getD i 0) :
    ¬ ChecksumHolds (fr.set i b) := by
  have hcovered : ((fr.set i b).drop 1).take (8 + frameLen fr) =
      ((fr.drop 1).take (8 + frameLen fr)).set (i - 1) b := by
    rw [List.drop_set, if_neg (by omega), List.take_set]
  have hbyte : ((fr.drop 1).take (8 + frameLen fr)).getD (i - 1) 0 = fr.getD i 0 := by
    simp [show i - 1 < 8 + frameLen fr by omega, show i - 1 + 1 = i by omega]
  have hlt : i - 1 < ((fr.drop 1).take (8 + frameLen fr)).length := by simp; omega
  intro h
  rw [ChecksumHolds, frameLen_set h3 h4, num, num, getD_set_ne (by omega), getD_set_ne (by omega)] at h
  rw [ChecksumHolds, num, num, ← h, ← checksum16_toNat, ← checksum16_toNat, hcovered,
    BitVec.toNat_inj] at hck
  exact checksum16_set_ne hlt (by rwa [hbyte]) hck.symm

/-- R131: changing a covered byte, the length bytes and an unregistered module aside, is a checksum error. -/
theorem parseFrame_set_covered (hok : parseFrame cfg fr = .ok r) (h1 : 1 ≤ i)
    (h8 : i ≤ 8 + frameLen fr) (h3 : i ≠ 3) (h4 : i ≠ 4) (hb : b ≠ fr.getD i 0)
    (hmod : i = 1 → b ∈ cfg.validModules) : parseFrame cfg (fr.set i b) = .error .checksum := by
  obtain ⟨hlong, hstart, hmodule, hchecksum, -⟩ := validFrame_of_ok hok
  apply parseFrame_of_badChecksum
  · rwa [frameLen_set h3 h4, List.length_set]
  · rwa [getD_set_ne (by omega)]
  · by_cases hi : i = 1
    · subst hi; rw [getD_set_self (by omega)]; exact hmod rfl
    · rwa [getD_set_ne hi]
  · exact not_checksumHolds_set hlong hchecksum h1 h8 h3 h4 hb

/-- An unregistered module is reported before the checksum. -/
theorem parseFrame_set_module (hok : parseFrame cfg fr = .ok r) (hb : b ∉ cfg.validModules) :
    parseFrame cfg (fr.set 1 b) = .error .module := by
  obtain ⟨-, hmodule, -⟩ := corruptionYieldsTheFirstError cfg fr r hok
  exact hmodule b hb

end

/-- Settles O25: a flipped bit makes another byte, which spoils the checksum unless it first spoils the
module. -/
theorem singleBitErrorsAreCaught : Obligations.SingleBitErrorsAreCaught := by
  intro cfg fr r i k hok h1 h8 h3 h4 hk
  split_ifs with hbad
  · obtain ⟨rfl, hmod⟩ := hbad
    exact parseFrame_set_module hok hmod
  · refine parseFrame_set_covered hok h1 h8 h3 h4 (flip_bit_ne _ hk) fun hi => ?_
    subst hi
    exact by_contra fun hmod => hbad ⟨rfl, hmod⟩

end Sys2Proof.Claim
end

section
/-! SUPPORT. What a PARSE that goes on says about the receive side (42_decode.md R129, 10_state.md R26), and
staging under a finished frame (70_reset_and_hazards.md R208). -/

namespace Sys2Proof.Machine

open Sys2Proof.Claim

/-! ### Windows by cells -/

theorem window_getD (s : State) (d : Dir) {first count k : Nat} (hk : k < count) :
    (s.window d first count).getD k 0 = s.cell d (first + k) := by
  rw [List.getD_eq_getElem _ _ (by simpa using hk), window_getElem s d first count k hk]

/-- A write inside a window replaces one byte of it. -/
theorem window_poke (s : State) (d : Dir) (i count : Nat) (b : Byte) :
    (s.poke d i b).window d 0 count = (s.window d 0 count).set i b := by
  refine window_eq_of_cells (by simp) fun k hk => ?_
  rw [Nat.zero_add, cell_poke]
  by_cases hki : k = i
  · subst hki; rw [getD_set_self (by simpa using hk), if_pos ⟨rfl, rfl⟩]
  · rw [getD_set_ne (Ne.symm hki), window_getD s d hk, Nat.zero_add, if_neg (by simp [hki])]

/-- The length a window of five bytes or more declares. -/
theorem frameLen_window (s : State) {n : Nat} (h : 5 ≤ n) : frameLen (s.window .rx 0 n) = rxLength s := by
  rw [frameLen, num, num, window_getD s .rx (by omega), window_getD s .rx (by omega), rxLength, be16_toNat,
    Nat.mul_comm]

/-! ### The result of PARSE -/

theorem ErrKind.mask_ne_zero (k : ErrKind) : k.mask ≠ 0 := by cases k <;> decide

theorem ErrKind.mask_inj {j k : ErrKind} : j.mask = k.mask ↔ j = k := by
  cases j <;> cases k <;> decide

/-- The mask PARSE records tells the result of parseFrame. -/
theorem recordParse_error_eq_mask_iff (s : State) (r : Except ErrKind Fields) (k : ErrKind) :
    (recordParse s r).rxp.error = k.mask ↔ r = .error k := by
  cases r with
  | error j => exact ErrKind.mask_inj.trans (by simp)
  | ok f => exact iff_of_false k.mask_ne_zero.symm (by simp)

/-- START_SYM is reported only for a first byte that is no start symbol (R126). -/
theorem start_of_parseFrame_startSym {cfg : Config} {buf : List Byte}
    (h : parseFrame cfg buf = .error .startSym) : 12 ≤ buf.length ∧ buf.getD 0 0 ≠ 0x01 := by
  have hlong : 12 + frameLen buf ≤ buf.length := by
    by_contra hshort
    cases h.symm.trans (parseFrame_of_short (by omega))
  refine ⟨by omega, fun hstart => ?_⟩
  have hchain := (validationOrder cfg buf).symm.trans h
  rw [if_neg (by omega), if_neg (not_not.mpr hstart)] at hchain
  split_ifs at hchain <;> cases hchain

/-- R129: the collected bytes are too short exactly while the frame is not complete. -/
theorem AssemblerInv.parse_incomplete_iff {s : State} (ha : AssemblerInv s) :
    parseFrame s.cfg (s.window .rx 0 s.rx.idx.toNat) = .error .incomplete ↔ s.asm ≠ .complete := by
  obtain ⟨hincomplete, -⟩ := shortBuffersAreIncomplete
  have hle := ha.fits.le
  obtain ⟨-, -, -, -, hcomplete, -⟩ := ha
  rw [hincomplete, window_length, ne_eq, hcomplete]
  by_cases h5 : 5 ≤ s.rx.idx.toNat
  · rw [frameLen_window s h5]
    omega
  · exact iff_of_true (.inl (by omega)) fun h => h5 h.1

/-- R32: a byte collected first is the start symbol. -/
theorem AssemblerInv.parse_ne_startSym {s : State} (ha : AssemblerInv s) :
    parseFrame s.cfg (s.window .rx 0 s.rx.idx.toNat) ≠ .error .startSym := by
  intro h
  obtain ⟨hlong, hstart⟩ := start_of_parseFrame_startSym h
  rw [window_length] at hlong
  obtain ⟨-, hcell, -⟩ := (assemblerInv_iff s).mp ha
  exact hstart ((window_getD s .rx (by omega)).trans (hcell (by omega)))

theorem err_of_handsBack {t : State} {e e' v v' : Word} {c c' : Bool} (h : handsBack t e c v)
    (h' : handsBack t e' c' v') : e = e' := by
  cases h.symm.trans h'
  rfl

/-- A PARSE that answers success has found a frame among the bytes below the cursor. -/
theorem parsed_of_success {s t : State} (hg : s.gen = true) (h : exec .parse s = .next t)
    (ht : handsBack t 0 false 0) :
    ∃ r, s.rx.idx.toNat ≤ s.rx.len.toNat ∧
      parseFrame s.cfg (s.window .rx 0 s.rx.idx.toNat) = .ok r ∧ t = recordParse s (.ok r) := by
  have herr : t.rxp.error = 0 := err_of_handsBack (execParse_handsBack h) ht
  obtain ⟨hg', -⟩ | ⟨-, hidx, rfl⟩ := execParse_next h
  · exact absurd (hg.symm.trans hg') (by decide)
  · cases hparse : parseFrame s.cfg (s.window .rx 0 s.rx.idx.toNat) with
    | error k =>
      rw [hparse] at herr
      exact absurd herr k.mask_ne_zero
    | ok r => exact ⟨r, hidx, rfl, rfl⟩

/-- The length a frame that parses declares fits the bytes parsed. -/
theorem payloadLen_of_ok {cfg : Config} {buf : List Byte} {r : Fields} (h : parseFrame cfg buf = .ok r) :
    12 + r.payloadLen.toNat ≤ buf.length := by
  have hlong := (validFrame_of_ok h).long
  rw [fields_of_ok h]
  exact (congrArg (12 + ·) (Nat.mod_eq_of_lt (frameLen_lt buf))).trans_le hlong

/-! ### Staging under a finished frame -/

/-- A CONSTRUCT that answers success has passed its checks. -/
theorem constructed_of_success {s t : State} (h : exec .construct s = .next t)
    (ht : handsBack t 0 false 0) :
    constructFails s = false ∧ ∃ u, writeFrame (withTxError s) = .ok u ∧ t = framed s u.tx.mem := by
  obtain ⟨hc, rfl⟩ | hframed := execConstruct_next_framed h
  · have hback : handsBack (respond (constructErr s) false 0 (withTxError s)) (constructErr s) false 0 :=
      rfl
    have herr : constructErr s = 0 := err_of_handsBack hback ht
    exact absurd ((constructErr_eq_zero_iff s).mp herr) (by simp [hc])
  · exact hframed

/-- The cursor CONSTRUCT leaves is the length of the frame. -/
theorem framed_idx {s : State} (hc : constructFails s = false) (mem : Memory) :
    (framed s mem).tx.idx.toNat = 12 + s.txp.payloadLen.toNat := by
  obtain ⟨-, -, hfit, -⟩ := (constructFails_eq_false_iff s).mp hc
  have hlen := s.tx.len.isLt
  exact Nat.mod_eq_of_lt (by omega)

/-- The frame CONSTRUCT leaves parses, and its length is the declared one. -/
theorem parseFrame_framed {s u : State} (hc : constructFails s = false)
    (hu : writeFrame (withTxError s) = .ok u) :
    parseFrame s.cfg ((framed s u.tx.mem).window .tx 0 (12 + s.txp.payloadLen.toNat)) =
        .ok ⟨s.txp.moduleId, s.txp.cmd, s.txp.payloadLen, s.txp.flags⟩ ∧
      frameLen ((framed s u.tx.mem).window .tx 0 (12 + s.txp.payloadLen.toNat)) =
        s.txp.payloadLen.toNat := by
  obtain ⟨-, -, -, hm⟩ := (constructFails_eq_false_iff s).mp hc
  have hl := s.txp.payloadLen.isLt
  have hp : (s.window .tx 5 s.txp.payloadLen.toNat).length ≤ 65535 := by
    rw [window_length]; omega
  rw [framed_window hc hu, parseFrame_frameEncode hm hp, frameLen_frameEncode hp, window_length,
    BitVec.ofNat_toNat, BitVec.setWidth_eq]
  exact ⟨rfl, rfl⟩

/-- R208: a payload byte changed under a finished frame spoils its checksum. -/
theorem parseFrame_framed_poke {s u : State} (hc : constructFails s = false)
    (hu : writeFrame (withTxError s) = .ok u) {k : Nat} (hk : k < s.txp.payloadLen.toNat) {b : Byte}
    (hb : b ≠ (framed s u.tx.mem).cell .tx (5 + k)) :
    parseFrame s.cfg (((framed s u.tx.mem).poke .tx (5 + k) b).window .tx 0
      (12 + s.txp.payloadLen.toNat)) = .error .checksum := by
  obtain ⟨hok, hlen⟩ := parseFrame_framed hc hu
  rw [window_poke]
  refine parseFrame_set_covered hok (by omega) (by omega) (by omega) (by omega) ?_ (by omega)
  rwa [window_getD _ .tx (by omega), Nat.zero_add]

end Sys2Proof.Machine

namespace Sys2Proof.Claim

open Sys2Proof.Machine

/-- Settles O28: the mask recorded is that of the result, which the assembler's state decides. -/
theorem parseIncompleteUnlessComplete : Obligations.ParseIncompleteUnlessComplete := by
  intro s hs ha hg
  refine ⟨_, _, exec_parse_of_fits hg (cursor_le_of_storageInv hs .rx),
    congrArg State.result (recordParse_eq s _), ?_, ?_⟩
  · exact (recordParse_error_eq_mask_iff s _ .incomplete).trans ha.parse_incomplete_iff
  · exact mt (recordParse_error_eq_mask_iff s _ .startSym).mp ha.parse_ne_startSym

/-- Settles O29: the declared length fits the bytes below the cursor, which lie within the buffer. -/
theorem parsedPayloadFitsTheBuffer : Obligations.ParsedPayloadFitsTheBuffer := by
  intro s t hg h ht
  obtain ⟨r, hidx, hok, rfl⟩ := parsed_of_success hg h ht
  have hfit := payloadLen_of_ok hok
  rw [window_length] at hfit
  have hmax := payloadMax_toNat (s := recordParse s (.ok r)) (d := .rx)
    (show 12 ≤ s.rx.len.toNat by omega)
  refine ⟨hfit, ?_⟩
  rw [hmax]
  show r.payloadLen.toNat ≤ s.rx.len.toNat - 12
  omega

/-- Settles O55: the byte lies in the window CONSTRUCT has checked, so TXPAY succeeds, and the frame is the one
CONSTRUCT left with one covered byte changed. -/
theorem stagingUnderAFinishedFrameBreaksIt : Obligations.StagingUnderAFinishedFrameBreaksIt := by
  intro s t u k b hcon ht hk hb hpay
  obtain ⟨hc, v, hv, rfl⟩ := constructed_of_success hcon ht
  obtain ⟨hg, -, hfit, -⟩ := (constructFails_eq_false_iff s).mp hc
  have hk : k.toNat < s.txp.payloadLen.toNat := hk
  have hin : 5 + k.toNat < (framed s v.tx.mem).tx.len.toNat :=
    show 5 + k.toNat < s.tx.len.toNat by omega
  have hgen : (framed s v.tx.mem).gen = true := hg
  cases hpay.symm.trans (exec_txpay_of_inside hgen hin b)
  refine ⟨rfl, ?_⟩
  have hidx := framed_idx hc v.tx.mem
  have hbad := parseFrame_framed_poke hc hv hk hb
  rw [← hidx] at hbad
  exact hbad

end Sys2Proof.Claim
end

section
/-! SUPPORT. Feeding a frame to a flushed receive side byte by byte (43_rx_assembler.md R145), and the way of a
constructed frame through it (41_encode.md R120). -/

namespace Sys2Proof.Machine

open Sys2Proof.Claim

theorem runInstrs_rxframe_append {xs ys : List Byte} {s t : State}
    (h : runInstrs (rxframe xs) s = .next t) :
    runInstrs (rxframe (xs ++ ys)) s = runInstrs (rxframe ys) t := by
  have hsplit : rxframe (xs ++ ys) = rxframe xs ++ rxframe ys := List.map_append
  rw [hsplit, runInstrs_append_of_next h]

/-- One byte more of a list is one more RXBYTE. -/
theorem runInstrs_rxframe_take_succ {bytes : List Byte} {n : Nat} {s t : State} (hn : n < bytes.length)
    (h : runInstrs (rxframe (bytes.take n)) s = .next t) :
    runInstrs (rxframe (bytes.take (n + 1))) s = runInstrs [.rxbyte (bytes.getD n 0)] t := by
  rw [← List.take_concat_get' bytes n hn, runInstrs_rxframe_append h, List.getD_eq_getElem _ _ hn]
  rfl

/-- The completion signal comes with the byte that completes the frame, and with no other (R140). -/
theorem Accepted.done_eq {b : Byte} {s : State} {a : Asm} {done : Bool} (h : Accepted b s a done) :
    done = decide (a = .complete) := by
  cases h with
  | lengthKnown ha hi => split <;> rfl
  | start | header | payload | payloadEnd | tail | frameEnd => rfl

/-- The first `n` of `bytes` have been collected since the receive side of `s` was flushed. -/
structure Collected (s : State) (bytes : List Byte) (n : Nat) (t : State) : Prop where
  tied : AssemblerInv t
  frame : t = { s with rx := t.rx, asm := t.asm, result := t.result }
  len : t.rx.len = s.rx.len
  idx : t.rx.idx.toNat = n
  cells : ∀ k, k < n → t.cell .rx k = bytes.getD k 0
  answered : 1 ≤ n → handsBack t 0 (decide (t.asm = .complete)) 0

section
variable {s t : State} {bytes : List Byte} {n : Nat}

theorem Collected.start (ha : s.asm = .awaitStart) (hidx : s.rx.idx = 0) : Collected s bytes 0 s where
  tied := assemblerInv_of_start ha (by rw [hidx]; rfl)
  frame := rfl
  len := rfl
  idx := by rw [hidx]; rfl
  cells := fun k hk => absurd hk (Nat.not_lt_zero k)
  answered := fun h => absurd h (by decide)

theorem Collected.gen (h : Collected s bytes n t) : t.gen = s.gen := by rw [h.frame]

/-- The collected bytes. -/
theorem Collected.window (h : Collected s bytes n t) (hn : bytes.length = n) :
    t.window .rx 0 n = bytes :=
  window_eq_of_cells hn fun k hk => (congrArg (t.cell .rx) (Nat.zero_add k)).trans (h.cells k hk)

/-- The payload among the collected bytes. -/
theorem Collected.payload (h : Collected s bytes n t) (hn : bytes.length = n) {l : Nat} (hl : 5 + l ≤ n) :
    t.window .rx 5 l = (bytes.drop 5).take l :=
  window_eq_of_cells (by simp; omega) fun k hk => (h.cells (5 + k) (by omega)).trans (by simp [hk])

/-- Once the length field is in, `asm` is in the range of the frame's own length. -/
theorem Collected.fits (h : Collected s bytes n t) (h5 : 5 ≤ n) : AsmFits n (frameLen bytes) t.asm := by
  have hlength : rxLength t = frameLen bytes := by
    rw [rxLength, h.cells 3 (by omega), h.cells 4 (by omega), be16_toNat, Nat.mul_comm]
    rfl
  rw [← hlength, ← h.idx]
  exact h.tied.fits

theorem Collected.complete (h : Collected s bytes n t) (hn : n = 12 + frameLen bytes) :
    t.asm = .complete :=
  (h.fits (by omega)).unique ⟨by omega, hn⟩

theorem Collected.not_complete (h : Collected s bytes n t) (hn : n < 12 + frameLen bytes) :
    t.asm ≠ .complete := by
  intro ha
  by_cases h5 : 5 ≤ n
  · have hfits := h.fits h5
    rw [ha, AsmFits] at hfits
    omega
  · have hfits := h.tied.fits
    rw [ha, AsmFits, h.idx] at hfits
    omega

/-- Only at its start does the assembler ask for a particular byte, and there the frame has it. -/
theorem Collected.next_start (h : Collected s bytes n t) (hstart : bytes.getD 0 0 = 0x01)
    (ha : t.asm = .awaitStart) : bytes.getD n 0 = symStart := by
  obtain rfl : n = 0 := h.idx.symm.trans (h.tied.1.mp ha)
  exact hstart

/-- With room, the next byte of an incomplete frame is collected. -/
theorem Collected.next (h : Collected s bytes n t) (hg : s.gen = true)
    (hstart : bytes.getD 0 0 = 0x01) (hn : n < 12 + frameLen bytes) (hroom : n < s.rx.len.toNat) :
    ∃ u, exec (.rxbyte (bytes.getD n 0)) t = .next u ∧ Collected s bytes (n + 1) u := by
  have hroom : t.rx.idx.toNat < t.rx.len.toNat := by rwa [h.idx, h.len]
  obtain ⟨a, done, hacc⟩ := exists_accepted (h.next_start hstart) (h.not_complete hn)
  refine ⟨_, exec_rxbyte_of_accepted h.tied (h.gen.trans hg) hroom hacc, ?_⟩
  exact {
    tied := (h.tied.accepted hroom hacc).congr rfl rfl rfl
    frame := congrArg (fun v : State =>
      { v with rx := (appended (bytes.getD n 0) t).rx, asm := a,
               result := some (.response ⟨errSuccess, done, 0⟩) }) h.frame
    len := h.len
    idx := (appended_idx hroom _).trans (congrArg (· + 1) h.idx)
    cells := fun k hk => by
      show (appended (bytes.getD n 0) t).cell .rx k = _
      rw [cell_appended, h.idx]
      by_cases hkn : k = n
      · rw [if_pos ⟨rfl, hkn⟩, hkn]
      · rw [if_neg (by simp [hkn]), h.cells k (by omega)]
    answered := fun _ => congrArg (fun c => some (Result.response ⟨0, c, 0⟩)) hacc.done_eq }

/-- From a flushed, generated receive side, every initial part of a frame that fits the buffer is collected. -/
theorem runInstrs_rxframe_take (hg : s.gen = true) (ha : s.asm = .awaitStart) (hidx : s.rx.idx = 0)
    (hlen : bytes.length = 12 + frameLen bytes) (hstart : bytes.getD 0 0 = 0x01)
    (hn : n ≤ 12 + frameLen bytes) (hroom : n ≤ s.rx.len.toNat) :
    ∃ t, runInstrs (rxframe (bytes.take n)) s = .next t ∧ Collected s bytes n t := by
  induction n with
  | zero => exact ⟨s, rfl, .start ha hidx⟩
  | succ n ih =>
    obtain ⟨t, hrun, ht⟩ := ih (by omega) (by omega)
    obtain ⟨u, hexec, hu⟩ := ht.next hg hstart (by omega) (by omega)
    refine ⟨u, ?_, hu⟩
    exact (runInstrs_rxframe_take_succ (by omega) hrun).trans (runInstrs_cons_of_next hexec)

/-- A buffer that is full before the frame is complete takes no further byte. -/
theorem runInstrs_rxframe_full (hg : t.gen = true) (ha : t.asm ≠ .complete)
    (hfull : t.rx.len.toNat ≤ t.rx.idx.toNat) :
    ∃ r, runInstrs (rxframe bytes) t = .next { t with result := r } := by
  induction bytes generalizing t with
  | nil => exact ⟨t.result, rfl⟩
  | cons b bytes ih =>
    have hdiscard : ∃ k, Discarded b t k := by
      by_cases hstart : t.asm = .awaitStart → b = symStart
      · exact ⟨_, .full hg ha hstart hfull⟩
      · obtain ⟨ha, hb⟩ := Classical.not_imp.mp hstart
        exact ⟨_, .noStart hg ha hb⟩
    obtain ⟨k, hk⟩ := hdiscard
    obtain ⟨r, hr⟩ := ih (t := respond k.mask false 0 t) hg ha hfull
    exact ⟨r, (runInstrs_cons_of_next (exec_rxbyte_of_discarded hk)).trans hr⟩

/-- A frame longer than the buffer never completes: what does not fit is discarded. -/
theorem runInstrs_rxframe_of_full {m : Nat} (hg : s.gen = true)
    (hshort : s.rx.len.toNat < 12 + frameLen bytes) (hm : s.rx.len.toNat ≤ m)
    (hrun : runInstrs (rxframe (bytes.take s.rx.len.toNat)) s = .next t)
    (ht : Collected s bytes s.rx.len.toNat t) :
    ∃ r, runInstrs (rxframe (bytes.take m)) s = .next { t with result := r } := by
  have hfull : t.rx.len.toNat ≤ t.rx.idx.toNat := by rw [ht.idx, ht.len]
  obtain ⟨r, hr⟩ := runInstrs_rxframe_full (bytes := (bytes.drop s.rx.len.toNat).take
    (m - s.rx.len.toNat)) (ht.gen.trans hg) (ht.not_complete hshort) hfull
  refine ⟨r, ?_⟩
  rw [← Nat.add_sub_cancel' hm, List.take_add, runInstrs_rxframe_append hrun]
  exact hr

/-- The first byte that does not fit is answered ERR_MEMORY. -/
theorem runInstrs_rxframe_overflow (hg : s.gen = true) (hlen : bytes.length = 12 + frameLen bytes)
    (hstart : bytes.getD 0 0 = 0x01) (hshort : s.rx.len.toNat < 12 + frameLen bytes)
    (hrun : runInstrs (rxframe (bytes.take s.rx.len.toNat)) s = .next t)
    (ht : Collected s bytes s.rx.len.toNat t) :
    runInstrs (rxframe (bytes.take (s.rx.len.toNat + 1))) s =
      .next (respond ErrKind.memory.mask false 0 t) := by
  have hfull : t.rx.len.toNat ≤ t.rx.idx.toNat := by rw [ht.idx, ht.len]
  have hdiscard : Discarded (bytes.getD s.rx.len.toNat 0) t .memory :=
    .full (ht.gen.trans hg) (ht.not_complete hshort) (ht.next_start hstart) hfull
  exact (runInstrs_rxframe_take_succ (by omega) hrun).trans
    (runInstrs_cons_of_next (exec_rxbyte_of_discarded hdiscard))

end

/-- R120: an encoded packet, fed to a flushed receive side that has room for it, completes a frame that PARSE
decodes to the packet. -/
theorem receive_frameEncode {s : State} {m c : Byte} {p : List Byte} {f : Word} (hg : s.gen = true)
    (ha : s.asm = .awaitStart) (hidx : s.rx.idx = 0) (hm : m ∈ s.cfg.validModules)
    (hp : p.length ≤ 65535) (hroom : 12 + p.length ≤ s.rx.len.toNat) :
    ∃ u v, runInstrs (rxframe (frameEncode m c p f)) s = .next u ∧ handsBack u 0 true 0 ∧
      exec .parse u = .next v ∧ handsBack v 0 false 0 ∧ v.txp = s.txp ∧
      v.rxp = ⟨m, c, BitVec.ofNat 16 p.length, f, 0⟩ ∧ v.window .rx 5 p.length = p := by
  have hl : frameLen (frameEncode m c p f) = p.length := frameLen_frameEncode hp
  have hlen : (frameEncode m c p f).length = 12 + p.length := frameEncode_length m c p f
  obtain ⟨u, hrun, hu⟩ := runInstrs_rxframe_take (bytes := frameEncode m c p f) hg ha hidx
    (by rw [hl, hlen]) (frameEncode_getD_header m c p f (by decide)) (by rw [hl]) hroom
  rw [← hlen, List.take_length] at hrun
  have hback := hu.answered (by omega)
  rw [decide_eq_true (hu.complete (by rw [hl]))] at hback
  have hcfg : u.cfg = s.cfg := by rw [hu.frame]
  have hparse := exec_parse_of_fits (hu.gen.trans hg) (by rw [hu.idx, hu.len]; exact hroom)
  rw [hu.idx, hu.window hlen, hcfg, parseFrame_frameEncode hm hp] at hparse
  refine ⟨u, _, hrun, hback, hparse, rfl, ?_, rfl, ?_⟩
  · show u.txp = s.txp
    rw [hu.frame]
  · rw [recordParse_window, hu.payload hlen (by omega), frameEncode_payload]

end Sys2Proof.Machine

namespace Sys2Proof.Claim

open Sys2Proof.Machine

/-- Settles O33: with room every initial part is collected, and the whole frame completes it; without room the
bytes that fit are collected, and the rest is discarded. -/
theorem assemblerCountsTheFrame : Obligations.AssemblerCountsTheFrame := by
  intro s bytes _ hg ha hidx hlen hstart
  have collect {n : Nat} (hn : n ≤ 12 + frameLen bytes) (hroom : n ≤ s.rx.len.toNat) :=
    runInstrs_rxframe_take hg ha hidx hlen hstart hn hroom
  have fitting {n : Nat} (h1 : 1 ≤ n) (hn : n < 12 + frameLen bytes) (hroom : n ≤ s.rx.len.toNat) :
      ∃ t, runInstrs (rxframe (bytes.take n)) s = .next t ∧ handsBack t 0 false 0 ∧
        t.rx.idx.toNat = n ∧ t.asm ≠ .complete := by
    obtain ⟨t, hrun, ht⟩ := collect hn.le hroom
    have hback := ht.answered h1
    rw [decide_eq_false (ht.not_complete hn)] at hback
    exact ⟨t, hrun, hback, ht.idx, ht.not_complete hn⟩
  refine ⟨fun hroom => ⟨fun n h1 hn => fitting h1 hn (by omega), ?whole⟩,
    fun hshort => ⟨fun n h1 hn => ?short, ?overflow, fun n => ?never⟩⟩
  case whole =>
    obtain ⟨t, hrun, ht⟩ := collect le_rfl hroom
    rw [← hlen, List.take_length] at hrun
    have hcomplete := ht.complete rfl
    have hback := ht.answered (by omega)
    rw [decide_eq_true hcomplete] at hback
    exact ⟨t, hrun, hback, hcomplete, ht.window hlen⟩
  case short =>
    obtain ⟨t, hrun, hback, hn', -⟩ := fitting h1 (by omega) hn
    exact ⟨t, hrun, hback, hn'⟩
  case overflow =>
    obtain ⟨t, hrun, ht⟩ := collect hshort.le le_rfl
    exact ⟨_, runInstrs_rxframe_overflow hg hlen hstart hshort hrun ht, rfl⟩
  case never =>
    by_cases hn : n ≤ s.rx.len.toNat
    · obtain ⟨t, hrun, ht⟩ := collect (by omega) hn
      exact ⟨t, hrun, ht.not_complete (by omega)⟩
    · obtain ⟨t, hrun, ht⟩ := collect hshort.le le_rfl
      obtain ⟨r, hr⟩ := runInstrs_rxframe_of_full (m := n) hg hshort (by omega) hrun ht
      exact ⟨_, hr, ht.not_complete hshort⟩

/-- Settles O31: CONSTRUCT leaves an encoded packet, which fits the receive buffer of equal capacity. -/
theorem loopbackRoundTrip : Obligations.LoopbackRoundTrip := by
  intro s hs hready ha hidx
  obtain ⟨-, -, hlen, -⟩ := hs
  obtain ⟨hg, -, hfit, hm⟩ := id hready
  have hl := s.txp.payloadLen.isLt
  have hp : (s.window .tx 5 s.txp.payloadLen.toNat).length = s.txp.payloadLen.toNat := window_length ..
  have hc : constructFails s = false := (constructFails_eq_false_iff s).mpr hready
  obtain ⟨w, hw, hconstruct⟩ := exec_construct_of_ready hc
  obtain ⟨u, v, hrun, hu, hparse, hv, htxp, hrxp, hpayload⟩ :=
    receive_frameEncode (s := framed s w.tx.mem) (c := s.txp.cmd) (f := s.txp.flags)
      (p := s.window .tx 5 s.txp.payloadLen.toNat) hg ha hidx hm (by omega)
      (by rw [hp]; exact hlen ▸ hfit)
  rw [← framed_window hc hw, ← framed_idx hc w.tx.mem] at hrun
  rw [hp, BitVec.ofNat_toNat, BitVec.setWidth_eq] at hrxp
  rw [hp] at hpayload
  refine ⟨_, u, v, hconstruct, hrun, hu, hparse, hv, ?_, htxp, ?_⟩
  · rw [hrxp, htxp]; rfl
  · rw [hrxp]; exact hpayload

end Sys2Proof.Claim
end

section
/-! SUPPORT. The Channel Driver and the transport (46_channel_driver.md R170, R171): whatever the driver
does, the queue only grows by what arrives, but for the bytes SERVICE reads. -/

namespace Sys2Proof.Machine

/-- From `d` to `d'` time has passed and no byte has been read: the queue has grown by what arrived. -/
def Waited (env : Environment) (d d' : Driver) : Prop :=
  ∃ n, d'.moment = d.moment + n ∧ d'.consumed = d.consumed ∧
    d'.input = d.input ++ env.arrivals d.moment n

/-- From `d` to `d'` the bytes read and those queued are the former ones followed by what arrived. -/
def Served (env : Environment) (d d' : Driver) : Prop :=
  ∃ n, d'.moment = d.moment + n ∧
    d'.consumed ++ d'.input = d.consumed ++ d.input ++ env.arrivals d.moment n

section
variable {env : Environment} {d d₁ d₂ : Driver}

/-- What touches neither the transport nor the clock. -/
theorem Waited.of_same (hm : d₁.moment = d.moment) (hc : d₁.consumed = d.consumed)
    (hi : d₁.input = d.input) : Waited env d d₁ :=
  ⟨0, hm, hc, by rw [hi, arrivals_zero, List.append_nil]⟩

theorem Waited.refl : Waited env d d := .of_same rfl rfl rfl

theorem report_waited (err : Word) : Waited env d (report err d) := .of_same rfl rfl rfl

theorem writeBytes_waited (bytes : List Byte) : Waited env d (d.writeBytes bytes) := .of_same rfl rfl rfl

theorem Waited.trans (h₁ : Waited env d d₁) (h₂ : Waited env d₁ d₂) : Waited env d d₂ := by
  obtain ⟨n₁, hm₁, hc₁, hi₁⟩ := h₁
  obtain ⟨n₂, hm₂, hc₂, hi₂⟩ := h₂
  refine ⟨n₁ + n₂, by omega, hc₂.trans hc₁, ?_⟩
  rw [hi₂, hi₁, hm₁, arrivals_add, List.append_assoc]

/-- A moment after a change that touches neither. -/
theorem Waited.pass (h : Waited env d d₁) : Waited env d (d₁.pass env) :=
  h.trans ⟨1, rfl, rfl, by rw [pass_input, arrivals_one]⟩

theorem Waited.served (h : Waited env d d₁) : Served env d d₁ := by
  obtain ⟨n, hm, hc, hi⟩ := h
  exact ⟨n, hm, by rw [hc, hi, List.append_assoc]⟩

theorem Served.trans (h₁ : Served env d d₁) (h₂ : Served env d₁ d₂) : Served env d d₂ := by
  obtain ⟨n₁, hm₁, hq₁⟩ := h₁
  obtain ⟨n₂, hm₂, hq₂⟩ := h₂
  refine ⟨n₁ + n₂, by omega, ?_⟩
  rw [hq₂, hq₁, hm₁, arrivals_add, List.append_assoc _ (env.arrivals _ _)]

/-- A byte read moves from the queue to the bytes read. -/
theorem Served.of_readByte {b : Byte} {rest : List Byte} (hi : d.input = b :: rest) :
    Served env d { d with input := rest, consumed := d.consumed ++ [b] } :=
  ⟨0, rfl, by simp [hi]⟩

/-! ### The driver's sequences, where they go on -/

variable {d' : Driver}

theorem issue_waited {i : Instr} {k : Response → Driver → DriverOutcome}
    (hk : ∀ r e, k r e = .next d' → Waited env e d') (h : issue env i d k = .next d') :
    Waited env d d' := by
  obtain ⟨t, -, hnext⟩ := issue_next h
  have hissued : Waited env d ({ d with block := t }.pass env) := (Waited.of_same rfl rfl rfl).pass
  obtain ⟨r, -, hr⟩ | ⟨-, rfl⟩ := hnext
  · exact hissued.trans (hk r _ hr)
  · exact hissued

theorem issueAll_waited {is : List Instr} {k : Driver → DriverOutcome}
    (hk : ∀ e, k e = .next d' → Waited env e d') (h : issueAll env is d k = .next d') :
    Waited env d d' := by
  induction is generalizing d with
  | nil => exact hk d h
  | cons i is ih => exact issue_waited (fun _ _ => ih) h

theorem readOut_waited {op : Half → Instr} {first count : Nat} {k : List Byte → Driver → DriverOutcome}
    (hk : ∀ bytes e, k bytes e = .next d' → Waited env e d')
    (h : readOut env op first count d k = .next d') : Waited env d d' := by
  induction count generalizing d first k with
  | zero => exact hk [] d h
  | succ count ih => exact issue_waited (fun _ _ => ih fun bytes => hk _) h

theorem flushAndEnd_waited (h : flushAndEnd env d = .next d') : Waited env d d' :=
  issue_waited (fun _ e he => by cases he; exact .refl) h

theorem sendReply_waited {m : Message} (h : sendReply env m d = .next d') : Waited env d d' := by
  refine issueAll_waited (fun d₁ => issue_waited fun r d₂ h₂ => ?_) h
  split at h₂
  · exact readOut_waited (fun bytes d₃ h₃ =>
      (writeBytes_waited bytes).trans (flushAndEnd_waited h₃)) h₂
  · exact (report_waited r.err).trans (flushAndEnd_waited h₂)

theorem called_waited : Waited env d (d.called env) :=
  (Waited.of_same (d₁ := { d with calls := d.calls + 1 }) rfl rfl rfl).pass

theorem acknowledge_waited {m : Message} (h : acknowledge env m d = .next d') : Waited env d d' := by
  have hcalled : Waited env d (d.called env) := called_waited
  have hflush := flushAndEnd_waited h
  split at hflush
  · exact hcalled.trans hflush
  · exact hcalled.trans ((report_waited _).trans hflush)

theorem handleFrame_waited (h : handleFrame env d = .next d') : Waited env d d' := by
  refine issue_waited (fun r d₁ h₁ => ?_) h
  split at h₁
  · exact (report_waited r.err).trans (flushAndEnd_waited h₁)
  · refine readOut_waited (fun payload d₂ h₂ => ?_) h₁
    split at h₂
    · exact acknowledge_waited h₂
    · exact called_waited.trans (sendReply_waited h₂)

theorem serviceByte_waited {b : Byte} (h : serviceByte env b d = .next d') : Waited env d d' := by
  refine issue_waited (fun r d₁ h₁ => ?_) h
  split at h₁
  · exact (report_waited r.err).trans (issue_waited (fun _ e he => by cases he; exact .refl) h₁)
  · split at h₁
    · exact handleFrame_waited h₁
    · cases h₁
      exact .refl

theorem pass_waited : Waited env d (d.pass env) := Waited.refl.pass

/-- However many tests SERVICE has made, it has read in order; it returns with an empty queue. -/
theorem serviceFor_served {n : Nat} {p : Progress} (h : serviceFor env n d = .next p) :
    Served env d p.driver ∧ ∀ e, p = .returned e → e.input = [] := by
  induction n generalizing d with
  | zero =>
    cases h
    exact ⟨Waited.refl.served, fun e he => by cases he⟩
  | succ n ih =>
    obtain ⟨hempty, rfl⟩ | ⟨b, rest, d₂, hi, hbyte, hrest⟩ := serviceFor_succ_next h
    · exact ⟨pass_waited.served, fun e he => by cases he; exact hempty⟩
    · obtain ⟨hserved, hreturned⟩ := ih hrest
      have hread : Served env (d.pass env) { d.pass env with input := rest, consumed := d.consumed ++ [b] } :=
        .of_readByte hi
      exact ⟨((pass_waited.served.trans hread).trans (serviceByte_waited hbyte).served).trans hserved,
        hreturned⟩

end

end Sys2Proof.Machine

namespace Sys2Proof.Claim

open Sys2Proof.Machine

/-- Settles O57: nothing but SERVICE's own read takes from the queue, and nothing but an arrival extends it. -/
theorem serviceConsumesEachByteOnce : Obligations.ServiceConsumesEachByteOnce := by
  intro env d n p h
  obtain ⟨⟨k, hmoment, hqueue⟩, hreturned⟩ := serviceFor_served h
  refine ⟨by omega, ?_, hreturned⟩
  rw [hqueue, hmoment, Nat.add_sub_cancel_left]

end Sys2Proof.Claim
end

section
/-! SUPPORT. The Channel Driver on a generated, sound block (46_channel_driver.md R171, R172, R175): every
operation it issues is answered and keeps the block so, every handled frame ends flushed, and SERVICE comes to
an end once nothing arrives. -/

namespace Sys2Proof.Machine

open Sys2Proof.Claim

/-! ### The block under the driver -/

/-- A generated block whose storage and assembler are sound. -/
structure Ready (s : State) : Prop where
  storage : StorageInv s
  assembler : AssemblerInv s
  gen : s.gen = true

/-- The operations the driver issues: those on a generated pair, RDREG aside. -/
def issuedByDriver : Instr → Bool
  | .rdreg _ => false
  | i => !movesStorage i

theorem needStorage_responds {s t u : State} (h : needStorage s (.next (succeed u)) = .next t) :
    ∃ r, t.result = some (.response r) := by
  obtain ⟨-, rfl⟩ | ⟨-, rfl⟩ := needStorage_succeed_next h <;> exact ⟨_, rfl⟩

theorem readBelowCursor_responds {d : Dir} {idx : Half} {s t : State}
    (h : readBelowCursor d idx s = .next t) : ∃ r, t.result = some (.response r) := by
  obtain ⟨-, rfl⟩ | ⟨-, -, -, rfl⟩ := readBelowCursor_next h <;> exact ⟨_, rfl⟩

/-- Every operation the driver issues is answered with a response: IllegalCommand comes from RDREG alone. -/
theorem exec_responds {i : Instr} {s t : State} (hi : issuedByDriver i = true) (h : exec i s = .next t) :
    ∃ r, t.result = some (.response r) := by
  cases i with
  | generate n | destroy | rdreg sel => cases hi
  | flushtx | flushrx | flushboth => exact needStorage_responds h
  | rxbyte b => obtain ⟨k, -, rfl⟩ | ⟨a, done, -, -, -, rfl⟩ := execRxbyte_next h <;> exact ⟨_, rfl⟩
  | parse => exact ⟨_, execParse_handsBack h⟩
  | construct => exact ⟨_, execConstruct_handsBack h⟩
  | txpay idx b => obtain ⟨-, rfl⟩ | ⟨-, -, rfl⟩ := execTxpay_next h <;> exact ⟨_, rfl⟩
  | rxrd idx | txrd idx => exact readBelowCursor_responds h
  | txmod v | txcmd v | txlen v | txflags v | ckclr | ckadd b | ckget => cases h; exact ⟨_, rfl⟩

theorem Ready.exec {s t : State} (hs : Ready s) {i : Instr} (hi : issuedByDriver i = true)
    (h : exec i s = .next t) : Ready t where
  storage := exec_keeps_storage hs.storage h
  assembler := exec_keeps_assembler hs.assembler h
  gen := (exec_keeps_gen h (by rintro n rfl; cases hi) (by rintro rfl; cases hi)).trans hs.gen

/-! ### The driver's sequences, to their end -/

/-- The sequence goes on to its end, in a driver of which `P` holds. -/
def Ends (P : Driver → Prop) (o : DriverOutcome) : Prop := ∃ d', o = .next d' ∧ P d'

/-- R175: the receive side at its start, both cursors 0. -/
structure Flushed (d : Driver) : Prop where
  ready : Ready d.block
  asm : d.block.asm = .awaitStart
  rxIdx : d.block.rx.idx = 0
  txIdx : d.block.tx.idx = 0

section
variable {env : Environment} {P : Driver → Prop} {d : Driver}

theorem issue_ends (hd : Ready d.block) {i : Instr} (hi : issuedByDriver i = true)
    {k : Response → Driver → DriverOutcome} (hk : ∀ r e, Ready e.block → Ends P (k r e)) :
    Ends P (issue env i d k) := by
  obtain ⟨t, ht⟩ := exec_progress hd.storage hd.assembler i
  obtain ⟨r, hr⟩ := exec_responds hi ht
  rw [issue_of_response ht hr]
  exact hk r _ (hd.exec hi ht)

theorem issueAll_ends (hd : Ready d.block) {is : List Instr} (his : ∀ i ∈ is, issuedByDriver i = true)
    {k : Driver → DriverOutcome} (hk : ∀ e, Ready e.block → Ends P (k e)) :
    Ends P (issueAll env is d k) := by
  induction is generalizing d with
  | nil => exact hk d hd
  | cons i is ih =>
    obtain ⟨hi, his⟩ := List.forall_mem_cons.mp his
    exact issue_ends hd hi fun _ _ he => ih he his

theorem readOut_ends (hd : Ready d.block) {op : Half → Instr} (hop : ∀ n, issuedByDriver (op n) = true)
    {first count : Nat} {k : List Byte → Driver → DriverOutcome}
    (hk : ∀ bytes e, Ready e.block → Ends P (k bytes e)) : Ends P (readOut env op first count d k) := by
  induction count generalizing d first k with
  | zero => exact hk [] d hd
  | succ count ih => exact issue_ends hd (hop _) fun _ _ he => ih he fun _ => hk _

/-- FLUSHBOTH, which ends every handled frame, leaves the pair flushed. -/
theorem flushAndEnd_ends (hd : Ready d.block) : Ends Flushed (flushAndEnd env d) := by
  have hexec := exec_flushboth_of_generated hd.gen
  exact ⟨_, issue_of_response hexec rfl _, hd.exec rfl hexec, rfl, rfl, rfl⟩

theorem issuedByDriver_stagePayload (k : Nat) (p : List Byte) :
    ∀ i ∈ stagePayload k p, issuedByDriver i = true := by
  induction p generalizing k with
  | nil => exact fun i hi => absurd hi List.not_mem_nil
  | cons b p ih => exact List.forall_mem_cons.mpr ⟨rfl, ih (k + 1)⟩

/-- The operations that load a reply. -/
theorem issuedByDriver_reply (m : Message) :
    ∀ i ∈ [.txmod m.moduleId, .txcmd m.cmd, .txlen (BitVec.ofNat 16 m.payload.length)] ++
      stagePayload 0 m.payload ++ [.txflags m.flags], issuedByDriver i = true := by
  intro i hi
  simp only [List.mem_append, List.mem_cons, List.not_mem_nil, or_false] at hi
  obtain ((rfl | rfl | rfl) | hi) | rfl := hi
  · rfl
  · rfl
  · rfl
  · exact issuedByDriver_stagePayload 0 m.payload i hi
  · rfl

theorem sendReply_ends (hd : Ready d.block) (m : Message) : Ends Flushed (sendReply env m d) := by
  refine issueAll_ends hd (issuedByDriver_reply m) fun d₁ h₁ => issue_ends h₁ rfl fun r d₂ h₂ => ?_
  split
  · exact readOut_ends h₂ (fun _ => rfl) fun bytes d₃ h₃ => flushAndEnd_ends h₃
  · exact flushAndEnd_ends h₂

theorem acknowledge_ends (hd : Ready d.block) (m : Message) : Ends Flushed (acknowledge env m d) := by
  refine flushAndEnd_ends ?_
  split <;> exact hd

/-- R175: whatever the callbacks answer and whatever arrives. -/
theorem handleFrame_ends (hd : Ready d.block) : Ends Flushed (handleFrame env d) := by
  refine issue_ends hd rfl fun r d₁ h₁ => ?_
  split
  · exact flushAndEnd_ends h₁
  · refine readOut_ends h₁ (fun _ => rfl) fun payload d₂ h₂ => ?_
    split
    · exact acknowledge_ends h₂ _
    · exact sendReply_ends (d := d₂.called env) h₂ _

theorem serviceByte_ends (hd : Ready d.block) (b : Byte) :
    Ends (fun e => Ready e.block) (serviceByte env b d) := by
  refine issue_ends hd rfl fun r d₁ h₁ => ?_
  split
  · exact issue_ends (i := .flushrx) (d := report r.err d₁) h₁ rfl fun _ d₂ h₂ => ⟨d₂, rfl, h₂⟩
  · split
    · obtain ⟨d₂, hend, hflushed⟩ := handleFrame_ends (env := env) h₁
      exact ⟨d₂, hend, hflushed.ready⟩
    · exact ⟨d₁, rfl, h₁⟩

/-! ### SERVICE -/

theorem serviceFor_of_empty (h : (d.pass env).input = []) (n : Nat) :
    serviceFor env (n + 1) d = .next (.returned (d.pass env)) := by
  have hread : (d.pass env).readByte = none := by
    rw [readByte_eq_none_iff, Driver.bytesAvailable, h]; rfl
  simp only [serviceFor, hread]

theorem serviceFor_of_byte {b : Byte} {rest : List Byte} {d₂ : Driver}
    (h : (d.pass env).input = b :: rest)
    (hbyte : serviceByte env b { d.pass env with input := rest, consumed := d.consumed ++ [b] } = .next d₂)
    (n : Nat) : serviceFor env (n + 1) d = serviceFor env n d₂ := by
  have hread : (d.pass env).readByte =
      some (b, { d.pass env with input := rest, consumed := d.consumed ++ [b] }) := by
    simp only [Driver.readByte, h]; rfl
  simp only [serviceFor, hread, hbyte]

/-- One test of SERVICE's loop on a ready block: it returns, or it reads one byte and the block is ready again,
with what has arrived meanwhile behind the rest of the queue. -/
theorem service_test (hd : Ready d.block) :
    ((d.pass env).input = [] ∧ ∀ n, serviceFor env (n + 1) d = .next (.returned (d.pass env))) ∨
    ∃ b rest d₂ k, (d.pass env).input = b :: rest ∧ Ready d₂.block ∧
      (∀ n, serviceFor env (n + 1) d = serviceFor env n d₂) ∧ d₂.moment = d.moment + 1 + k ∧
      d₂.input = rest ++ env.arrivals (d.moment + 1) k := by
  cases hi : (d.pass env).input with
  | nil => exact .inl ⟨rfl, serviceFor_of_empty hi⟩
  | cons b rest =>
    obtain ⟨d₂, hbyte, h₂⟩ := serviceByte_ends (env := env)
      (d := { d.pass env with input := rest, consumed := d.consumed ++ [b] }) hd b
    obtain ⟨k, hmoment, -, hinput⟩ := serviceByte_waited hbyte
    exact .inr ⟨b, rest, d₂, k, rfl, h₂, serviceFor_of_byte hi hbyte, hmoment, hinput⟩

/-- No number of tests stops on a fault or a refusal. -/
theorem serviceFor_progress (hd : Ready d.block) (n : Nat) : ∃ p, serviceFor env n d = .next p := by
  induction n generalizing d with
  | zero => exact ⟨_, rfl⟩
  | succ n ih =>
    obtain ⟨-, hreturn⟩ | ⟨b, rest, d₂, k, -, h₂, htest, -⟩ := service_test (env := env) hd
    · exact ⟨_, hreturn n⟩
    · rw [htest]
      exact ih h₂

/-- SERVICE returns, with the block still ready. -/
def ReturnsReady (env : Environment) (d : Driver) : Prop :=
  ∃ d', ServiceReturns env d d' ∧ Ready d'.block

theorem returnsReady_of_empty (hd : Ready d.block)
    (h : ∀ n, serviceFor env (n + 1) d = .next (.returned (d.pass env))) : ReturnsReady env d :=
  ⟨d.pass env, ⟨1, h 0⟩, hd⟩

theorem returnsReady_of_test {d₂ : Driver} (h : ∀ n, serviceFor env (n + 1) d = serviceFor env n d₂)
    (h₂ : ReturnsReady env d₂) : ReturnsReady env d := by
  obtain ⟨d', ⟨n, hn⟩, hd'⟩ := h₂
  exact ⟨d', ⟨n + 1, (h n).trans hn⟩, hd'⟩

/-- From moment `m` on the transport is silent. -/
def SilentFrom (env : Environment) (m : Nat) : Prop := ∀ n, m ≤ n → env.arrive n = []

theorem SilentFrom.arrivals {m first : Nat} (h : SilentFrom env m) (hm : m ≤ first) (k : Nat) :
    env.arrivals first k = [] := by
  rw [Environment.arrivals, List.flatMap_eq_nil_iff]
  exact fun j _ => h _ (by omega)

/-- Against a silent transport each test shortens the queue. -/
theorem returnsReady_of_silent {m : Nat} (hsilent : SilentFrom env m) (hd : Ready d.block)
    (hm : m ≤ d.moment) : ReturnsReady env d := by
  induction hq : d.input.length generalizing d with
  | zero =>
    have hempty : (d.pass env).input = [] := by
      rw [pass_input, hsilent _ hm, List.append_nil, List.length_eq_zero_iff.mp hq]
    exact returnsReady_of_empty hd (serviceFor_of_empty hempty)
  | succ n ih =>
    obtain ⟨-, hreturn⟩ | ⟨b, rest, d₂, k, hi, h₂, htest, hmoment, hinput⟩ :=
      service_test (env := env) hd
    · exact returnsReady_of_empty hd hreturn
    · refine returnsReady_of_test htest (ih h₂ (by omega) ?_)
      rw [hsilent.arrivals (by omega), List.append_nil] at hinput
      rw [pass_input, hsilent _ hm, List.append_nil] at hi
      rw [hi, List.length_cons] at hq
      rw [hinput]
      omega

/-- Every test takes a moment, so the silence is reached. -/
theorem returnsReady_of_silentFrom {m : Nat} (hsilent : SilentFrom env m) (hd : Ready d.block) :
    ReturnsReady env d := by
  induction hk : m - d.moment using Nat.strong_induction_on generalizing d with
  | _ k ih =>
    by_cases hm : m ≤ d.moment
    · exact returnsReady_of_silent hsilent hd hm
    · obtain ⟨-, hreturn⟩ | ⟨b, rest, d₂, j, -, h₂, htest, hmoment, -⟩ :=
        service_test (env := env) hd
      · exact returnsReady_of_empty hd hreturn
      · exact returnsReady_of_test htest (ih (m - d₂.moment) (by omega) h₂ rfl)

end

end Sys2Proof.Machine

namespace Sys2Proof.Claim

open Sys2Proof.Machine

/-- Settles O56: every path of `handleFrame` ends in the FLUSHBOTH of a ready block. -/
theorem handleFrameLeavesTheChannelReady : Obligations.HandleFrameLeavesTheChannelReady := by
  intro env d hs ha hg
  obtain ⟨d', hend, hready, hasm, hrx, htx⟩ := handleFrame_ends (env := env) ⟨hs, ha, hg⟩
  exact ⟨d', hend, hasm, hrx, htx, hready.gen⟩

/-- Settles O58: no test stops on a ready block; each takes a moment, and once nothing arrives each shortens
the queue. -/
theorem serviceReturnsOnceTheTransportIsSilent : Obligations.ServiceReturnsOnceTheTransportIsSilent := by
  intro env d hs ha hg
  have hd : Ready d.block := ⟨hs, ha, hg⟩
  refine ⟨serviceFor_progress hd, fun m hsilent => ?_⟩
  obtain ⟨d', hreturns, hready⟩ := returnsReady_of_silentFrom hsilent hd
  obtain ⟨n, hn⟩ := id hreturns
  obtain ⟨-, hempty⟩ := serviceFor_served hn
  exact ⟨d', hreturns, hempty d' rfl, hready.gen⟩

end Sys2Proof.Claim
end
